-- ==== Sys2Proof/Word.lean ====
section
/-! DEFINITION. The word types of OPT4048-CORE and the two fixed-size containers: four channels, three by three entries. -/

namespace Sys2Proof

/-- One byte as it crosses the RegisterLink (20_memory R20, R21). -/
abbrev Byte := BitVec 8

/-- A device register word; WORD is fixed at 16 bits (00_scope R4, 20_memory R18). -/
abbrev Word := BitVec 16

/-- A one-byte command code, format CMD8 (20_memory R18, 30_encoding R34). -/
abbrev Cmd := BitVec 8

/-- A host request word, format REQ24 (30_encoding R35). -/
abbrev Req24 := BitVec 24

/-- The numeric domain NUM: the exact rationals (00_scope R7; log 10). -/
abbrev NumQ := Rat

/-- One value for each of the four channels 0..3 (NCH = 4, 00_scope R4). -/
structure Quad (α : Type) where
  c0 : α
  c1 : α
  c2 : α
  c3 : α
  deriving DecidableEq, Repr

/-- The value of channel `ch`. -/
def Quad.get {α : Type} (q : Quad α) (ch : Fin 4) : α :=
  match ch with
  | 0 => q.c0
  | 1 => q.c1
  | 2 => q.c2
  | 3 => q.c3

/-- `q` with the value of channel `ch` replaced. -/
def Quad.set {α : Type} (q : Quad α) (ch : Fin 4) (v : α) : Quad α :=
  match ch with
  | 0 => { q with c0 := v }
  | 1 => { q with c1 := v }
  | 2 => { q with c2 := v }
  | 3 => { q with c3 := v }

/-- The same value for every channel. -/
def Quad.fill {α : Type} (v : α) : Quad α := ⟨v, v, v, v⟩

/-- A three by three matrix; `eij` is the entry of row i, column j. -/
structure Mat3 (α : Type) where
  e00 : α
  e01 : α
  e02 : α
  e10 : α
  e11 : α
  e12 : α
  e20 : α
  e21 : α
  e22 : α
  deriving DecidableEq, Repr

/-- The same value in every entry. -/
def Mat3.fill {α : Type} (v : α) : Mat3 α := ⟨v, v, v, v, v, v, v, v, v⟩

end Sys2Proof
end

