-- ==== Sys2Proof/Syntax.lean ====
section
/-! DEFINITION. The nine host operations, the block's instructions (30_encoding R36, opcode_table.json), and the three
ways a request word can break the contract (30_encoding R37). -/

namespace Sys2Proof

/-- The host operations, one constructor per row of the operation map (30_encoding R36). A select operand is the 4-bit
field SEL as it stands in the request, so that an illegal one can be written down (30_encoding R35). -/
inductive Instr where
  /-- RD_CH ch: read single channel (45_operations R63). -/
  | rdCh (sel : BitVec 4)
  /-- RD_ALL: read all four channels (R64). -/
  | rdAll
  /-- RD_ADC: read ADC quad (R65). -/
  | rdAdc
  /-- RD_XYZ: read XYZ (R66). -/
  | rdXyz
  /-- RD_XY: read chromaticity xy (R67). -/
  | rdXy
  /-- RD_LUX: read lux (R68). -/
  | rdLux
  /-- RD_RGB: read RGB (R69). -/
  | rdRgb
  /-- RD_THR which: read low or high threshold (R70). -/
  | rdThr (sel : BitVec 4)
  /-- WR_THR which, mant, exp: write low or high threshold (R71). -/
  | wrThr (sel : BitVec 4) (mant : BitVec 12) (exp : BitVec 4)
  deriving DecidableEq, Repr

/-- The three clauses of 30_encoding R37, by which a request is a contract violation. -/
inductive Violation where
  /-- (a) OPSEL is 0x9..0xF. -/
  | reservedOpsel
  /-- (b) SEL is outside the legal set of the operation. -/
  | illegalSel
  /-- (c) DATA is not 0 in an operation other than WR_THR. -/
  | nonzeroData
  deriving DecidableEq, Repr

end Sys2Proof
end

