-- ==== Sys2Proof/WellFormed.lean ====
section
/-! DEFINITION. Which operands are legal: clause (b) of 30_encoding R37, the only one that a term of `Instr` can break. -/

namespace Sys2Proof

/-- The clause of R37 that the instruction's operands break, if any: RD_CH wants SEL in 0..3, RD_THR and WR_THR want SEL
in 0..1. -/
def Instr.violation : Instr → Option Violation
  | .rdCh sel => if sel.toNat ≤ 3 then none else some .illegalSel
  | .rdAll => none
  | .rdAdc => none
  | .rdXyz => none
  | .rdXy => none
  | .rdLux => none
  | .rdRgb => none
  | .rdThr sel => if sel.toNat ≤ 1 then none else some .illegalSel
  | .wrThr sel _ _ => if sel.toNat ≤ 1 then none else some .illegalSel

/-- The instruction breaks no clause of the contract. -/
abbrev Instr.WellFormed (i : Instr) : Prop := i.violation = none

end Sys2Proof
end

