-- ==== Sys2Proof/Decode.lean ====
section
/-! DEFINITION. Decoding a request word, total on all 2^24 words, and encoding an instruction, both written from format
REQ24 and the operation map (30_encoding R35, R36, R37). -/

namespace Sys2Proof

/-- OPSEL, bits 23:20 of a request (30_encoding R35). -/
def reqOpsel (w : Req24) : BitVec 4 := w.extractLsb' 20 4

/-- SEL, bits 19:16 of a request (30_encoding R35). -/
def reqSel (w : Req24) : BitVec 4 := w.extractLsb' 16 4

/-- DATA, bits 15:0 of a request (30_encoding R35). -/
def reqData (w : Req24) : Word := w.extractLsb' 0 16

/-- TEXP, bits 15:12 of a threshold word, format THR16 (30_encoding R33). -/
def thrExpField (w : Word) : BitVec 4 := w.extractLsb' 12 4

/-- TMANT, bits 11:0 of a threshold word, format THR16 (30_encoding R33). -/
def thrMantField (w : Word) : BitVec 12 := w.extractLsb' 0 12

/-- The decoded instruction, when its operands are legal and DATA is as it must be. Where a word breaks several clauses of
R37 the model names the first (log 19). -/
def checked (i : Instr) (dataOk : Bool) : Except Violation Instr :=
  match i.violation with
  | some v => .error v
  | none => if dataOk then .ok i else .error .nonzeroData

/-- An operation without operands: SEL and DATA must be 0 (30_encoding R36, R37). -/
def plainOp (i : Instr) (w : Req24) : Except Violation Instr :=
  if reqSel w = 0 then checked i (reqData w == 0) else .error .illegalSel

/-- The request decoder (45_operations R61 (2)): the instruction, or the clause of R37 the word breaks. -/
def decode (w : Req24) : Except Violation Instr :=
  match (reqOpsel w).toNat with
  | 0 => checked (.rdCh (reqSel w)) (reqData w == 0)
  | 1 => plainOp .rdAll w
  | 2 => plainOp .rdAdc w
  | 3 => plainOp .rdXyz w
  | 4 => plainOp .rdXy w
  | 5 => plainOp .rdLux w
  | 6 => plainOp .rdRgb w
  | 7 => checked (.rdThr (reqSel w)) (reqData w == 0)
  | 8 => checked (.wrThr (reqSel w) (thrMantField (reqData w)) (thrExpField (reqData w))) true
  | _ => .error .reservedOpsel

/-- A request word from its three fields (30_encoding R35). -/
def reqWord (opsel sel : BitVec 4) (data : Word) : Req24 := opsel ++ sel ++ data

/-- The request word of an instruction (30_encoding R36, R39). -/
def encode : Instr → Req24
  | .rdCh sel => reqWord 0x0 sel 0
  | .rdAll => reqWord 0x1 0 0
  | .rdAdc => reqWord 0x2 0 0
  | .rdXyz => reqWord 0x3 0 0
  | .rdXy => reqWord 0x4 0 0
  | .rdLux => reqWord 0x5 0 0
  | .rdRgb => reqWord 0x6 0 0
  | .rdThr sel => reqWord 0x7 sel 0
  | .wrThr sel mant exp => reqWord 0x8 sel (exp ++ mant)

/-- The columns `match` and `mask` of the operation map (30_encoding R36): a word is of the instruction's row when its
masked bits are the row's. -/
def tableRow : Instr → Req24 × Req24
  | .rdCh _ => (0x000000, 0xF0FFFF)
  | .rdAll => (0x100000, 0xFFFFFF)
  | .rdAdc => (0x200000, 0xFFFFFF)
  | .rdXyz => (0x300000, 0xFFFFFF)
  | .rdXy => (0x400000, 0xFFFFFF)
  | .rdLux => (0x500000, 0xFFFFFF)
  | .rdRgb => (0x600000, 0xFFFFFF)
  | .rdThr _ => (0x700000, 0xF0FFFF)
  | .wrThr _ _ _ => (0x800000, 0xF00000)

/-- What the decoder reads from a word numbered as spec/opcode_table.json numbers it: a request is one 24-bit word, so the
number is the word itself. -/
def decodeTableWord (nbits w : Nat) : Option Instr :=
  match decode (BitVec.ofNat 24 (w % 2 ^ nbits)) with
  | .ok i => some i
  | .error _ => none

end Sys2Proof
end

