-- ==== Sys2Proof/Config.lean ====
section
/-! DEFINITION. What the spec leaves to the implementer as a FUNCTION: the realisation POW512 of v^(1/2.4) inside the
compander (42_color_pipeline R57) and the companding functions other than the default (00_scope R4, 92 D18). Both are
constants with no body: nothing in Lean can evaluate them or prove a value of them beyond the properties that stand in
their type. The OPEN parameters that are numbers are fields of State's `cfg`. -/

namespace Sys2Proof.Config

/-- Only to show that the type `Pow512` below is inhabited, which Lean asks before it accepts a constant of that type.
The model never calls it and no proof can learn that `pow512` has anything to do with it: below 1 it is v^(5/12) rounded
down to a multiple of 1/1100. -/
def pow512Witness (v : NumQ) : NumQ :=
  if v ≤ 1 then ((Nat.findGreatest (fun n => (n : NumQ) ^ 12 ≤ 1100 ^ 12 * v ^ 5) 1100 : Nat) : NumQ) / 1100 else 1

theorem pow512Witness_le_one (v : NumQ) : pow512Witness v ≤ 1 := by
  unfold pow512Witness
  split
  · rw [div_le_one (by norm_num)]
    exact_mod_cast Nat.findGreatest_le 1100
  · exact le_rfl

theorem pow512Witness_one : pow512Witness 1 = 1 := by
  have h : Nat.findGreatest (fun n => (n : NumQ) ^ 12 ≤ 1100 ^ 12 * 1 ^ 5) 1100 = 1100 := by
    apply le_antisymm (Nat.findGreatest_le 1100)
    exact Nat.le_findGreatest le_rfl (by norm_num)
  simp only [pow512Witness, le_refl, if_true, h]
  norm_num

theorem pow512Witness_mono (v w : NumQ) (hv : 7827 / 2500000 < v) (hvw : v ≤ w) :
    pow512Witness v ≤ pow512Witness w := by
  by_cases hw : w ≤ 1
  · have hv1 : v ≤ 1 := hvw.trans hw
    simp only [pow512Witness, hv1, hw, if_true]
    apply div_le_div_of_nonneg_right _ (by norm_num : (0 : NumQ) ≤ 1100)
    have hpow : v ^ 5 ≤ w ^ 5 := pow_le_pow_left₀ (by linarith) hvw 5
    have hle : ∀ n : Nat, (n : NumQ) ^ 12 ≤ 1100 ^ 12 * v ^ 5 → (n : NumQ) ^ 12 ≤ 1100 ^ 12 * w ^ 5 :=
      fun n hn => le_trans hn (mul_le_mul_of_nonneg_left hpow (by positivity))
    exact Nat.cast_le.mpr (Nat.findGreatest_mono_left hle 1100)
  · have h1 : pow512Witness w = 1 := by simp [pow512Witness, hw]
    rw [h1]
    exact pow512Witness_le_one v

theorem pow512Witness_close (v : NumQ) (hv : 7827 / 2500000 < v) (hv1 : v ≤ 1) :
    |((pow512Witness v : NumQ) : ℝ) - (v : ℝ) ^ ((5 : ℝ) / 12)| ≤ ((1 / 1100 : NumQ) : ℝ) := by
  have hvq : (0 : NumQ) ≤ v := by linarith
  have hv0 : (0 : ℝ) ≤ (v : ℝ) := by exact_mod_cast hvq
  set t : ℝ := (v : ℝ) ^ ((5 : ℝ) / 12) with ht
  have ht0 : 0 ≤ t := Real.rpow_nonneg hv0 _
  have ht12 : t ^ 12 = (v : ℝ) ^ 5 := by
    rw [ht, ← Real.rpow_natCast, ← Real.rpow_mul hv0, ← Real.rpow_natCast]
    norm_num
  have ht1 : t ≤ 1 := Real.rpow_le_one hv0 (by exact_mod_cast hv1) (by norm_num)
  have key : ∀ n : ℕ, ((n : NumQ) ^ 12 ≤ 1100 ^ 12 * v ^ 5) ↔ (n : ℝ) ≤ 1100 * t := by
    intro n
    rw [← pow_le_pow_iff_left₀ (Nat.cast_nonneg n) (by positivity : (0 : ℝ) ≤ 1100 * t) (by norm_num : (12 : ℕ) ≠ 0),
      mul_pow, ht12]
    exact_mod_cast Iff.rfl
  set n := Nat.findGreatest (fun n => (n : NumQ) ^ 12 ≤ 1100 ^ 12 * v ^ 5) 1100 with hn
  have hlow : (n : ℝ) ≤ 1100 * t := by
    rw [← key]
    exact Nat.findGreatest_spec (P := fun n => (n : NumQ) ^ 12 ≤ 1100 ^ 12 * v ^ 5) (Nat.zero_le 1100)
      (by simpa using (by positivity : (0 : NumQ) ≤ 1100 ^ 12 * v ^ 5))
  have hupp : 1100 * t < (n : ℝ) + 1 := by
    by_contra hc
    rcases Nat.lt_or_ge n 1100 with h | h
    · apply Nat.findGreatest_is_greatest (P := fun n => (n : NumQ) ^ 12 ≤ 1100 ^ 12 * v ^ 5) (Nat.lt_succ_self n) h
      rw [key]
      push_cast
      linarith
    · have : (1100 : ℝ) ≤ n := by exact_mod_cast h
      linarith
  have hw : ((pow512Witness v : NumQ) : ℝ) = (n : ℝ) / 1100 := by
    simp only [pow512Witness, hv1, if_true]
    push_cast
    rfl
  rw [hw, abs_le]
  push_cast
  constructor <;> linarith

/-- A realisation of v^(1/2.4) with the properties 42_color_pipeline R57 names, and no others. `eps` is its COMPAND_EPS.
The domain is 0.0031308 < v (= 7827/2500000): outside it `fn` has some value of which nothing is known. P4 of R57
follows (`Sys2Proof.Machine.pow512_ge_one`). The default values of the fields serve only to show that the type is inhabited. -/
structure Pow512 where
  fn : NumQ → NumQ := pow512Witness
  eps : NumQ := 1 / 1100
  /-- P1. -/
  one : fn 1 = 1 := by exact pow512Witness_one
  /-- P2, on the domain. -/
  mono : ∀ v w : NumQ, 7827 / 2500000 < v → v ≤ w → fn v ≤ fn w := by exact pow512Witness_mono
  /-- P3: within `eps` of the real power function for 0.0031308 < v <= 1. -/
  close : ∀ v : NumQ, 7827 / 2500000 < v → v ≤ 1 →
    |((fn v : NumQ) : ℝ) - (v : ℝ) ^ ((5 : ℝ) / 12)| ≤ ((eps : NumQ) : ℝ) := by exact pow512Witness_close
  /-- P3's bound: COMPAND_EPS is no larger than 1e-3 / 1.055. -/
  eps_le : eps ≤ (1 / 1000) / (211 / 200) := by norm_num
  deriving Inhabited

/-- POW512, realisation number n: a free value (00_scope R4, 42_color_pipeline R57, 92 D17; log 8). -/
opaque pow512 : Nat → Pow512

/-- The companding functions other than the default, by number: free values of which nothing is assumed
(00_scope R4, 92 D18; log 9). -/
opaque otherCompand : Nat → NumQ → NumQ

end Sys2Proof.Config
end

