-- ==== Sys2Proof/Machine/State.lean ====
section
/-! DEFINITION. The state of the block, its configuration, the events of the agents around it, the records it sends, the
reasons a step can stop, and the state after reset (10_state, 00_scope R92, 30_encoding R38). -/

namespace Sys2Proof.Machine

/-- The four error kinds a link transaction can return (20_memory R25). -/
inductive LinkError where
  | timeout
  | nackOnAddress
  | nackOnData
  | transportUnknown
  deriving DecidableEq, Repr

/-- The names of STATUS (30_encoding R38); their codes are `Status.code`. -/
inductive Status where
  | none
  | timeout
  | nackOnAddress
  | nackOnData
  | transportUnknown
  | crcMismatch
  | domainError
  | contractViolation
  deriving DecidableEq, Repr

/-- One answer of the RegisterLink to one transaction (20_memory R20, R21, R25). `ok b0 b1` carries the two bytes in the
order they arrive; the Ok of a write carries no word and its bytes are not looked at (log 21). -/
inductive LinkAnswer where
  | ok (b0 b1 : Byte)
  | err (k : LinkError)
  deriving DecidableEq, Repr

/-- COMPAND_FN: the default sRGB function, or another one named by a number (10_state R11, 42_color_pipeline R54, 92 D18). -/
inductive CompandSel where
  | srgb
  | other (n : Nat)
  deriving DecidableEq, Repr

/-- The configuration record CFG (10_state R11). An entry that is `none` holds no value. -/
structure Cfg where
  /-- DEVADDR, handed to the link unchanged (20_memory R29). -/
  devAddr : Nat
  /-- The nine OPEN entries of M: `eij` is M[i][j], row i the channel 0..2, column j the output X, Y, Z (42 R48). -/
  m : Mat3 (Option NumQ)
  /-- MRGB: `erc` multiplies input component c into output component r (42 R53). -/
  mrgb : Mat3 (Option NumQ)
  wx : Option NumQ
  wy : Option NumQ
  /-- WZ is read by no rule (42 R52). -/
  wz : Option NumQ
  compandFn : CompandSel
  /-- POW512: the number of the realisation `Config.pow512 n` (42 R57). -/
  pow512 : Option Nat
  deriving DecidableEq, Repr

/-- What the host can do to the block (00_scope R92; 45_operations R61; 70_reset_and_hazards R84, R85). -/
inductive HostEvent where
  /-- The host presents a request word. -/
  | request (w : Req24)
  /-- The host writes the configuration record. -/
  | configure (c : Cfg)
  /-- Reset. -/
  | reset
  deriving DecidableEq, Repr

/-- What meets an outstanding transaction: the link's answer, or a host event that lands before the answer. -/
inductive LinkEvent where
  | answer (a : LinkAnswer)
  | host (e : HostEvent)
  deriving DecidableEq, Repr

/-- One transaction as it is seen on the link (00_scope R92): the device address, the command code, and for a write the
word (20_memory R20, R26, R29). -/
inductive Transaction where
  | read (dev : Nat) (cmd : Cmd)
  | write (dev : Nat) (cmd : Cmd) (w : Word)
  deriving DecidableEq, Repr

/-- The payload of a response, one form per operation (30_encoding R38; 45_operations R63 to R71). -/
inductive Payload where
  | none
  | reading (exp : BitVec 4) (mant : BitVec 20) (cnt : BitVec 4) (crc : BitVec 4) (crcc : BitVec 4)
  | readings (rd : Quad (BitVec 32)) (crcc : Quad (BitVec 4))
  | adc (a : Quad (BitVec 35))
  | xyz (x y z lux : NumQ)
  | xy (cx cy : NumQ)
  | lux (l : NumQ)
  | rgb (r g b : NumQ)
  | threshold (texp : BitVec 4) (tmant : BitVec 12) (tadc : BitVec 27)
  deriving DecidableEq, Repr

/-- The response record RESP (30_encoding R38). `crcerr` is `none` where the response has no CRCERR field. -/
structure Response where
  status : BitVec 4
  crcerr : Option (BitVec 4)
  payload : Payload
  deriving DecidableEq, Repr

/-- The working registers of the operation in flight (10_state R12). A register that is `none` holds no value (R17). -/
structure Work where
  w1 : Option Word
  w2 : Option Word
  rd : Quad (Option (BitVec 32))
  crcc : Quad (Option (BitVec 4))
  /-- CRCERR, bit ch for channel ch (10_state R13). -/
  crcerr : Quad (Option Bool)
  adc : Quad (Option (BitVec 35))
  x : Option NumQ
  y : Option NumQ
  z : Option NumQ
  lux : Option NumQ
  cx : Option NumQ
  cy : Option NumQ
  r : Option NumQ
  g : Option NumQ
  b : Option NumQ
  thr : Option Word
  status : Option (BitVec 4)
  deriving DecidableEq, Repr

/-- No working register holds a value (10_state R16, R17). -/
def Work.empty : Work :=
  { w1 := none, w2 := none, rd := .fill none, crcc := .fill none, crcerr := .fill none, adc := .fill none,
    x := none, y := none, z := none, lux := none, cx := none, cy := none, r := none, g := none, b := none,
    thr := none, status := none }

/-- The state of the machine. `host`, `link`, `linkRest`, `issued` and `delivered` are the model's own: the inputs the
other agents give and the observations of 00_scope R92 (logs 2, 3, 13). -/
structure State where
  /-- CFG (10_state R11). -/
  cfg : Cfg
  /-- BUSY (10_state R14). -/
  busy : Bool
  /-- OP, the latched request (10_state R14). -/
  op : Option Req24
  /-- SEQ, the index of the next transaction of the operation (10_state R14). -/
  seq : Option Nat
  /-- The working registers (10_state R12). -/
  work : Work
  /-- The events the host will present, in order. -/
  host : List HostEvent
  /-- The events that will meet the block's transactions, in order (20_memory R27). -/
  link : List LinkEvent
  /-- The answer of every transaction beyond the list `link`. -/
  linkRest : LinkAnswer
  /-- The transactions issued so far, oldest first. -/
  issued : List Transaction
  /-- The responses delivered so far, oldest first. -/
  delivered : List Response
  deriving DecidableEq, Repr

/-- The working registers by name, for the fault of reading one that holds no value (10_state R12). -/
inductive WReg where
  | w1
  | w2
  | rd (ch : Fin 4)
  | crcc (ch : Fin 4)
  | crcerr (ch : Fin 4)
  | adc (ch : Fin 4)
  | x
  | y
  | z
  | lux
  | thr
  | cx
  | cy
  | r
  | g
  | b
  | status
  deriving DecidableEq, Repr

/-- Why the machine stops with a fault. -/
inductive Fault where
  /-- Raised by `fetch` (in `Machine/Ops.lean`) for a request word that breaks clause `why` of 30_encoding R37, and by
  `launch` for an instruction with an illegal select operand: "A model treats it as a fault" (60_exceptions R77). Safe: the
  spec defines no response and no end. -/
  | contractViolation (why : Violation)
  /-- Raised by `need` (in `Machine/Ops.lean`) when a unit reads a working register that nothing has written in this
  operation (10_state R17). Safe: the machine stops; under the rules it cannot happen. -/
  | unwrittenRegister (reg : WReg)
  deriving DecidableEq, Repr

/-- Why the model gives a step no meaning. -/
inductive Refusal where
  /-- An instruction that the model gives no meaning, by its mnemonic; no arm of `exec` answers it. Safe. -/
  | notModelled (mnemonic : String)
  /-- Raised by `fetch`, `launch` and `transact`: a request presented while BUSY = 1 has no meaning (70 R86). Safe. -/
  | requestWhileBusy
  /-- Raised by `fetch` and `transact`: CFG must not change while an operation is in flight (70 R88). Safe. -/
  | configureWhileBusy
  /-- Raised by `launch`: the operation has no meaning under a configuration that is not well formed in what it reads
  (10_state R11). Safe. -/
  | illFormedConfig
  deriving DecidableEq, Repr

/-- 95.05, the example white point's X (00_scope R4), as a fraction in lowest terms. -/
def exampleWX : NumQ := ⟨1901, 20, by decide, by decide⟩

/-- 108.9, the example white point's Z (00_scope R4), as a fraction in lowest terms. -/
def exampleWZ : NumQ := ⟨1089, 10, by decide, by decide⟩

/-- CFG after reset. COMPAND_FN is the default (10_state R11). The other values are the model's: the spec leaves them
unspecified (DESIGN CHOICE, unsafe, log 5). -/
def Cfg.reset : Cfg :=
  { devAddr := 0, m := .fill (some 0), mrgb := .fill (some 0),
    wx := some exampleWX, wy := some 100, wz := some exampleWZ,
    compandFn := .srgb, pow512 := some 0 }

/-- The state after reset (10_state R16): idle, no register holds a value, nothing is presented, issued or delivered.
`linkRest` is a DESIGN CHOICE (log 3). -/
def State.reset : State :=
  { cfg := .reset, busy := false, op := none, seq := none, work := .empty,
    host := [], link := [], linkRest := .err .timeout, issued := [], delivered := [] }

end Sys2Proof.Machine
end

