-- ==== Sys2Proof/Machine/Ops.lean ====
section
/-! DEFINITION. The shared operations of the machine: how a run of an operation can end, reading a working register,
accepting a request, a link transaction, the end of an operation by a response or by an error (the spec's "exception"),
reset, and taking the next host event. -/

namespace Sys2Proof.Machine

/-- How an operation in flight ends before its last step: with a response or a reset already taken (`ended`), with a
fault or with a refusal. -/
inductive Stop where
  | ended (s : State)
  | fault (f : Fault)
  | refused (why : Refusal)

/-- A step of an operation: it goes on with a value, or the operation stops. -/
abbrev Run (α : Type) := Except Stop α

/-- The value of a working register; reading one that holds no value is a fault (10_state R17). -/
def need {α : Type} (reg : WReg) : Option α → Run α
  | some a => .ok a
  | none => .error (.fault (.unwrittenRegister reg))

/-- The state with its working registers changed by `f` and nothing else. -/
def State.upd (s : State) (f : Work → Work) : State := { s with work := f s.work }

/-- The numbers of STATUS (30_encoding R38). -/
def Status.code : Status → BitVec 4
  | .none => 0
  | .timeout => 1
  | .nackOnAddress => 2
  | .nackOnData => 3
  | .transportUnknown => 4
  | .crcMismatch => 5
  | .domainError => 6
  | .contractViolation => 7

/-- A link error is passed on unchanged (60_exceptions R74). -/
def LinkError.status : LinkError → Status
  | .timeout => .timeout
  | .nackOnAddress => .nackOnAddress
  | .nackOnData => .nackOnData
  | .transportUnknown => .transportUnknown

/-! ### Accepting a request -/

/-- Accept (45_operations R61 (1)): the request is latched in OP, BUSY = 1, SEQ = 0, no working register holds a value. -/
def State.accept (s : State) (w : Req24) : State :=
  { s with busy := true, op := some w, seq := some 0, work := .empty }

/-! ### The end of an operation -/

/-- STATUS is set (60_exceptions R79). -/
def State.setStatus (s : State) (k : Status) : State := s.upd fun w => { w with status := some k.code }

/-- The block leaves an operation: BUSY = 0 and nothing of the operation remains (45_operations R61 (4), 60 R80; log 11). -/
def State.idle (s : State) : State :=
  { s with busy := false, op := none, seq := none, work := .empty }

/-- The response with the present STATUS is delivered and the operation is over (45_operations R61 (4), 70 R91). -/
def deliver (crcerr : Option (BitVec 4)) (p : Payload) (s : State) : Run State := do
  let st ← need .status s.work.status
  .ok { s.idle with delivered := s.delivered ++ [⟨st, crcerr, p⟩] }

/-- `respond(STATUS = None, CRCERR, payload)` (00_scope R8). -/
def respond (crcerr : Option (BitVec 4)) (p : Payload) (s : State) : Run State :=
  deliver crcerr p (s.setStatus .none)

/-- TAKING AN EXCEPTION, the one operation behind every hard error (60_exceptions R79): STATUS is set to the cause's code,
every other working register is discarded, no further transaction is issued, the response is delivered, BUSY becomes 0.
There is no payload; CRCERR goes with a DomainError only (45_operations R61, R67). There is no return from an exception:
the block is idle afterwards (60_exceptions R80). -/
def raise {α : Type} (k : Status) (crcerr : Option (BitVec 4)) (s : State) : Run α :=
  match deliver crcerr .none (s.setStatus k) with
  | .ok s' => .error (.ended s')
  | .error e => .error e

/-- Reset (70 R84, 10_state R16): the block is idle, an operation in flight ends without a response, CFG has its reset
values, no transaction is issued. What the other agents will do and have seen is not the block's and stays (log 12). -/
def State.resetNow (s : State) : State := { s.idle with cfg := .reset }

/-! ### The link -/

/-- The word of two bytes in the order they arrive, high byte first (20_memory R21). -/
def wordOfBytes (b0 b1 : Byte) : Word := b0 ++ b1

/-- The event that meets the n-th transaction from now on (20_memory R27; log 3). -/
def State.linkEvent (s : State) (n : Nat) : LinkEvent := s.link.getD n (.answer s.linkRest)

/-- The transaction is issued: it is seen on the link and uses up one event. -/
def State.issue (s : State) (t : Transaction) : State :=
  { s with issued := s.issued ++ [t], link := s.link.drop 1 }

/-- A transaction has answered Ok: SEQ counts it (10_state R14, 45_operations R61 (3)). -/
def State.countOk (s : State) : State := { s with seq := s.seq.map (· + 1) }

/-- One link transaction (20_memory R20, R24 to R26). Ok: the run goes on with the word. Err(k): the operation ends with
that kind. A reset that lands first ends the operation without a response (70 R84); a request or a configuration that lands
first has no meaning (70 R86, R88). -/
def transact (t : Transaction) (s : State) : Run (Word × State) :=
  match s.linkEvent 0 with
  | .answer (.ok b0 b1) => .ok (wordOfBytes b0 b1, (s.issue t).countOk)
  | .answer (.err k) => raise k.status none (s.issue t)
  | .host .reset => .error (.ended (s.issue t).resetNow)
  | .host (.request _) => .error (.refused .requestWhileBusy)
  | .host (.configure _) => .error (.refused .configureWhileBusy)

/-- `MemRead(cmd, 2)` (00_scope R8, 20_memory R20): DEVADDR goes with it unchanged (R29). -/
def memRead (cmd : Cmd) (s : State) : Run (Word × State) := transact (.read s.cfg.devAddr cmd) s

/-- `MemWrite(cmd, 2, w)` (00_scope R8, 20_memory R26). -/
def memWrite (cmd : Cmd) (w : Word) (s : State) : Run State := do
  let (_, s) ← transact (.write s.cfg.devAddr cmd w) s
  .ok s

/-- The bytes the block sends in a transaction: the command code, and for a write the word high byte first (20_memory R20,
R26; 92 D25; log 21). -/
def Transaction.bytesSent : Transaction → List Byte
  | .read _ cmd => [cmd]
  | .write _ cmd w => [cmd, w.extractLsb' 8 8, w.extractLsb' 0 8]

/-! ### Launching an operation -/

/-- What a run leaves: the next state, a fault or a refusal. -/
def outcome : Run State → Host.Outcome State Fault Refusal
  | .ok s => .next s
  | .error (.ended s) => .next s
  | .error (.fault f) => .fault f
  | .error (.refused why) => .refused why

/-- The life of an operation (45_operations R61). `conf` is what the operation reads of CFG, `none` when CFG is not well
formed in it (10_state R11; log 6); `body` is the steps of the operation's rule. A request while BUSY = 1 has no meaning
(70 R86); the contract is checked before any transaction (60 R78 (1)). -/
def launch {γ : Type} (i : Instr) (conf : Option γ) (body : γ → State → Run State) (s : State) :
    Host.Outcome State Fault Refusal :=
  if s.busy then .refused .requestWhileBusy
  else match i.violation with
    | some v => .fault (.contractViolation v)
    | none => match conf with
      | none => .refused .illFormedConfig
      | some c => outcome (body c (s.accept (encode i)))

/-! ### The next host event -/

/-- What the next host event asks for: an outcome at once, or an instruction to be run in a state. -/
inductive Fetched where
  | done (o : Host.Outcome State Fault Refusal)
  | run (i : Instr) (s : State)

/-- The block takes the next host event. Nothing presented: nothing happens (60 R83; log 20). A request is decoded
(45_operations R61 (2)); a word that breaks the contract is a fault (60 R77). A request or a configuration while BUSY = 1 is
refused (70 R86, R88). A configuration replaces CFG (70 R85). A reset resets (70 R84). -/
def fetch (s : State) : Fetched :=
  match s.host with
  | [] => .done (.next s)
  | .request w :: rest =>
    if s.busy then .done (.refused .requestWhileBusy)
    else match decode w with
      | .error v => .done (.fault (.contractViolation v))
      | .ok i => .run i { s with host := rest }
  | .configure c :: rest =>
    if s.busy then .done (.refused .configureWhileBusy) else .done (.next { s with cfg := c, host := rest })
  | .reset :: rest => .done (.next { s with host := rest }.resetNow)

end Sys2Proof.Machine
end

