-- ==== Sys2Proof/Machine/Operands.lean ====
section
/-! DEFINITION. The operand forms: the command codes an operation addresses, the device's register map, the fields of the
register words, and what an operation reads of the configuration. -/

namespace Sys2Proof.Machine

/-! ### Command codes (20_memory R19, 30_encoding R34) -/

/-- The channel that a legal SEL of RD_CH names (30_encoding R35). -/
def chanOf (sel : BitVec 4) : Fin 4 := ⟨sel.toNat % 4, Nat.mod_lt _ (by decide)⟩

/-- result-1 of channel ch: base(ch) = 2 * ch (20_memory R19). -/
def cmdResult1 (ch : Fin 4) : Cmd := BitVec.ofNat 8 (2 * ch.val)

/-- result-2 of channel ch: base(ch) + 1 (20_memory R19). -/
def cmdResult2 (ch : Fin 4) : Cmd := BitVec.ofNat 8 (2 * ch.val + 1)

/-- The threshold register that SEL names: 0x08 + which (30_encoding R34). -/
def cmdThreshold (sel : BitVec 4) : Cmd := 0x08 + sel.zeroExtend 8

/-- The thirteen registers of the document's map (20_memory R19). -/
inductive DeviceReg where
  | result1 (ch : Fin 4)
  | result2 (ch : Fin 4)
  | lowThreshold
  | highThreshold
  | configA
  | configB
  | deviceId
  deriving DecidableEq, Repr

/-- The register at a command code (20_memory R19); the codes that are not in the document have no name. -/
def deviceReg (cmd : Cmd) : Option DeviceReg :=
  match cmd.toNat with
  | 0x00 => some (.result1 0)
  | 0x01 => some (.result2 0)
  | 0x02 => some (.result1 1)
  | 0x03 => some (.result2 1)
  | 0x04 => some (.result1 2)
  | 0x05 => some (.result2 2)
  | 0x06 => some (.result1 3)
  | 0x07 => some (.result2 3)
  | 0x08 => some .lowThreshold
  | 0x09 => some .highThreshold
  | 0x0A => some .configA
  | 0x0B => some .configB
  | 0x11 => some .deviceId
  | _ => none

/-! ### The fields of the result words (30_encoding R30, R31) -/

/-- EXP = W1[15:12]. -/
def res1Exp (w1 : Word) : BitVec 4 := w1.extractLsb' 12 4

/-- MANTH = W1[11:0]. -/
def res1MantHigh (w1 : Word) : BitVec 12 := w1.extractLsb' 0 12

/-- MANTL = W2[15:8]. -/
def res2MantLow (w2 : Word) : BitVec 8 := w2.extractLsb' 8 8

/-- CNT = W2[7:4]. -/
def res2Cnt (w2 : Word) : BitVec 4 := w2.extractLsb' 4 4

/-- CRC = W2[3:0]. -/
def res2Crc (w2 : Word) : BitVec 4 := w2.extractLsb' 0 4

/-! ### The fields of a reading (30_encoding R32) -/

/-- EXP = RD[31:28]. -/
def rdExp (rd : BitVec 32) : BitVec 4 := rd.extractLsb' 28 4

/-- MANT = RD[27:8]. -/
def rdMant (rd : BitVec 32) : BitVec 20 := rd.extractLsb' 8 20

/-- CNT = RD[7:4]. -/
def rdCnt (rd : BitVec 32) : BitVec 4 := rd.extractLsb' 4 4

/-- CRC = RD[3:0]. -/
def rdCrc (rd : BitVec 32) : BitVec 4 := rd.extractLsb' 0 4

/-! ### What an operation reads of CFG (10_state R11) -/

/-- The entries, when every one holds a value. -/
def allEntries (m : Mat3 (Option NumQ)) : Option (Mat3 NumQ) := do
  let e00 ← m.e00
  let e01 ← m.e01
  let e02 ← m.e02
  let e10 ← m.e10
  let e11 ← m.e11
  let e12 ← m.e12
  let e20 ← m.e20
  let e21 ← m.e21
  let e22 ← m.e22
  some ⟨e00, e01, e02, e10, e11, e12, e20, e21, e22⟩

/-- What RD_XYZ and RD_XY read: the nine OPEN entries of M, each of which must hold a value (10_state R11). -/
def Cfg.coeffs (c : Cfg) : Option (Mat3 NumQ) := allEntries c.m

/-- What RD_RGB reads of CFG (45_operations R69). -/
structure RgbCfg where
  coeffs : Mat3 NumQ
  mrgb : Mat3 NumQ
  wx : NumQ
  wy : NumQ
  compandFn : CompandSel
  pow512 : Nat
  deriving DecidableEq, Repr

/-- CFG is well formed for RD_RGB: M, MRGB, WX, WY and POW512 hold values, WX != 0 and WY != 0 (10_state R11, 70 R85;
log 7). -/
def Cfg.rgb (c : Cfg) : Option RgbCfg := do
  let coeffs ← c.coeffs
  let mrgb ← allEntries c.mrgb
  let wx ← c.wx
  let wy ← c.wy
  let pow512 ← c.pow512
  if wx = 0 ∨ wy = 0 then none else some ⟨coeffs, mrgb, wx, wy, c.compandFn, pow512⟩

/-- What the operations that read DEVADDR and the hardwired entries only need of CFG: nothing can be missing
(10_state R11). -/
def Cfg.plain (_ : Cfg) : Option Unit := some ()

end Sys2Proof.Machine
end

