-- ==== Sys2Proof/Machine/Flags.lean ====
section
/-! DEFINITION. The block's flags, CRCERR[0..3], and the 4-bit parity CRC they come from: units CRC4 and CRCCHK
(40_reassembly_crc R42 to R44; 10_state R13). -/

namespace Sys2Proof.Machine

/-- The indices F[o], F[o+s], F[o+2s], ... of a field of `width` bits (R42). -/
def taps (width stride offset : Nat) : List Nat :=
  (List.range width).filter fun i => offset ≤ i && (i - offset) % stride == 0

/-- The parity of the bits of field `v` at the given stride from the given offset (R42, 00_scope R6). -/
def parityAt {n : Nat} (v : BitVec n) (stride offset : Nat) : Bool :=
  (taps n stride offset).foldl (fun acc i => acc ^^ v.getLsbD i) false

/-- CRC4 (R42): E the exponent, R the mantissa, C the counter; the result is {X[3], X[2], X[1], X[0]}. -/
def crcOf (e : BitVec 4) (r : BitVec 20) (c : BitVec 4) : BitVec 4 :=
  let x0 := parityAt e 2 0 ^^ parityAt r 2 0 ^^ parityAt c 2 0
  let x1 := parityAt e 2 1 ^^ parityAt r 2 1 ^^ parityAt c 2 1
  let x2 := parityAt e 4 3 ^^ parityAt r 4 3 ^^ parityAt c 4 3
  let x3 := parityAt r 8 3
  BitVec.ofBool x3 ++ BitVec.ofBool x2 ++ BitVec.ofBool x1 ++ BitVec.ofBool x0

/-- The exclusive-or of all bits (00_scope R6). -/
def parity {n : Nat} (v : BitVec n) : Bool := parityAt v 1 0

/-- CRC4 as masks on the concatenation D = {E, R, C} (R44). -/
def crcByMasks (d : BitVec 28) : BitVec 4 :=
  BitVec.ofBool (parity (d &&& 0x0808080)) ++ BitVec.ofBool (parity (d &&& 0x8888888)) ++
    BitVec.ofBool (parity (d &&& 0xAAAAAAA)) ++ BitVec.ofBool (parity (d &&& 0x5555555))

/-- Unit CRC4(ch) (R42). -/
def crc4 (ch : Fin 4) (s : State) : Run State := do
  let rd ← need (.rd ch) (s.work.rd.get ch)
  .ok (s.upd fun w => { w with crcc := w.crcc.set ch (some (crcOf (rdExp rd) (rdMant rd) (rdCnt rd))) })

/-- Unit CRCCHK(ch) (R43): CRCERR[ch] is 1 when the computed CRC differs from the CRC field; nothing else depends on it. -/
def crcchk (ch : Fin 4) (s : State) : Run State := do
  let crcc ← need (.crcc ch) (s.work.crcc.get ch)
  let rd ← need (.rd ch) (s.work.rd.get ch)
  .ok (s.upd fun w => { w with crcerr := w.crcerr.set ch (some (crcc != rdCrc rd)) })

/-- CRCERR[ch] << ch: the flag of one channel at its place in the response field (30_encoding R38). -/
def crcerrBit (ch : Fin 4) (s : State) : Run (BitVec 4) := do
  let e ← need (.crcerr ch) (s.work.crcerr.get ch)
  .ok (if e then (1#4) <<< ch.val else 0#4)

/-- CRCERR of all four channels (30_encoding R38). -/
def crcerrAll (s : State) : Run (BitVec 4) := do
  let b0 ← crcerrBit 0 s
  let b1 ← crcerrBit 1 s
  let b2 ← crcerrBit 2 s
  let b3 ← crcerrBit 3 s
  .ok (b3 ||| b2 ||| b1 ||| b0)

end Sys2Proof.Machine
end

