-- ==== Sys2Proof/Machine/Channel.lean ====
section
/-! DEFINITION. Units REASM, NORM, NORMQ, the load sequence READ_PAIR, and the operations RD_CH, RD_ALL, RD_ADC
(40_reassembly_crc R41; 41_adc_normalizer; 45_operations R62 to R65). -/

namespace Sys2Proof.Machine

/-- The reading {EXP, MANT, CNT, CRC} of two result words, MANT = (W1[11:0] << 8) | W2[15:8] (40_reassembly_crc R41). -/
def reassemble (w1 w2 : Word) : BitVec 32 :=
  let mant : BitVec 20 := ((res1MantHigh w1).zeroExtend 20 <<< 8) ||| (res2MantLow w2).zeroExtend 20
  res1Exp w1 ++ mant ++ res2Cnt w2 ++ res2Crc w2

/-- Unit REASM(ch) (40_reassembly_crc R41). -/
def reasm (ch : Fin 4) (s : State) : Run State := do
  let w1 ← need .w1 s.work.w1
  let w2 ← need .w2 s.work.w2
  .ok (s.upd fun w => { w with rd := w.rd.set ch (some (reassemble w1 w2)) })

/-- READ_PAIR(ch) (45_operations R62): result-1, then result-2, then REASM, CRC4 and CRCCHK. -/
def readPair (ch : Fin 4) (s : State) : Run State := do
  let (a, s) ← memRead (cmdResult1 ch) s
  let s := s.upd fun w => { w with w1 := some a }
  let (b, s) ← memRead (cmdResult2 ch) s
  let s := s.upd fun w => { w with w2 := some b }
  let s ← reasm ch s
  let s ← crc4 ch s
  crcchk ch s

/-- `for ch in 0..3: READ_PAIR(ch)` (45_operations R64). -/
def readAllPairs (s : State) : Run State := do
  let s ← readPair 0 s
  let s ← readPair 1 s
  let s ← readPair 2 s
  readPair 3 s

/-- MANT << EXP in 35 bits (41_adc_normalizer R45). -/
def adcOf (mant : BitVec 20) (exp : BitVec 4) : BitVec 35 := mant.zeroExtend 35 <<< exp.toNat

/-- The same shift as a pipeline of four stages, one per bit of EXP (41_adc_normalizer R45). -/
def adcStaged (mant : BitVec 20) (exp : BitVec 4) : BitVec 35 :=
  let s0 : BitVec 35 := mant.zeroExtend 35
  let s1 := if exp.getLsbD 0 then s0 <<< 1 else s0
  let s2 := if exp.getLsbD 1 then s1 <<< 2 else s1
  let s3 := if exp.getLsbD 2 then s2 <<< 4 else s2
  if exp.getLsbD 3 then s3 <<< 8 else s3

/-- The ADC value of a reading (41_adc_normalizer R45). -/
def adcOfReading (rd : BitVec 32) : BitVec 35 := adcOf (rdMant rd) (rdExp rd)

/-- Unit NORM(ch) (41_adc_normalizer R45). It does not look at CRCERR. -/
def normAdc (ch : Fin 4) (s : State) : Run State := do
  let rd ← need (.rd ch) (s.work.rd.get ch)
  .ok (s.upd fun w => { w with adc := w.adc.set ch (some (adcOfReading rd)) })

/-- Unit NORMQ (41_adc_normalizer R46). -/
def normq (s : State) : Run State := do
  let s ← normAdc 0 s
  let s ← normAdc 1 s
  let s ← normAdc 2 s
  normAdc 3 s

/-- The payload of RD_CH (45_operations R63). -/
def readingPayload (ch : Fin 4) (s : State) : Run Payload := do
  let rd ← need (.rd ch) (s.work.rd.get ch)
  let crcc ← need (.crcc ch) (s.work.crcc.get ch)
  .ok (.reading (rdExp rd) (rdMant rd) (rdCnt rd) (rdCrc rd) crcc)

/-- The payload of RD_ALL (45_operations R64). -/
def readingsPayload (s : State) : Run Payload := do
  let r0 ← need (.rd 0) (s.work.rd.get 0)
  let r1 ← need (.rd 1) (s.work.rd.get 1)
  let r2 ← need (.rd 2) (s.work.rd.get 2)
  let r3 ← need (.rd 3) (s.work.rd.get 3)
  let c0 ← need (.crcc 0) (s.work.crcc.get 0)
  let c1 ← need (.crcc 1) (s.work.crcc.get 1)
  let c2 ← need (.crcc 2) (s.work.crcc.get 2)
  let c3 ← need (.crcc 3) (s.work.crcc.get 3)
  .ok (.readings ⟨r0, r1, r2, r3⟩ ⟨c0, c1, c2, c3⟩)

/-- ADC[0..3] as read by a response or a later unit (10_state R12). -/
def readAdc (s : State) : Run (Quad (BitVec 35)) := do
  let a0 ← need (.adc 0) (s.work.adc.get 0)
  let a1 ← need (.adc 1) (s.work.adc.get 1)
  let a2 ← need (.adc 2) (s.work.adc.get 2)
  let a3 ← need (.adc 3) (s.work.adc.get 3)
  .ok ⟨a0, a1, a2, a3⟩

/-- The steps of RD_CH after READ_PAIR (45_operations R63). -/
def rdChTail (ch : Fin 4) (s : State) : Run State := do
  let e ← crcerrBit ch s
  let p ← readingPayload ch s
  respond (some e) p s

/-- RD_CH ch (45_operations R63). -/
def execRdCh (sel : BitVec 4) (s : State) : Host.Outcome State Fault Refusal :=
  launch (.rdCh sel) s.cfg.plain (fun _ s => readPair (chanOf sel) s >>= rdChTail (chanOf sel)) s

/-- The steps of RD_ALL after the four pairs (45_operations R64). -/
def rdAllTail (s : State) : Run State := do
  let e ← crcerrAll s
  let p ← readingsPayload s
  respond (some e) p s

/-- RD_ALL (45_operations R64). -/
def execRdAll (s : State) : Host.Outcome State Fault Refusal :=
  launch .rdAll s.cfg.plain (fun _ s => readAllPairs s >>= rdAllTail) s

/-- The steps of RD_ADC after the four pairs (45_operations R65). -/
def rdAdcTail (s : State) : Run State := do
  let s ← normq s
  let e ← crcerrAll s
  let a ← readAdc s
  respond (some e) (.adc a) s

/-- RD_ADC (45_operations R65). -/
def execRdAdc (s : State) : Host.Outcome State Fault Refusal :=
  launch .rdAdc s.cfg.plain (fun _ s => readAllPairs s >>= rdAdcTail) s

end Sys2Proof.Machine
end

