-- ==== Sys2Proof/Machine/Colour.lean ====
section
/-! DEFINITION. The colour pipeline over the exact rationals (42_color_pipeline) and the operations RD_XYZ, RD_XY, RD_LUX,
RD_RGB (45_operations R66 to R69). -/

namespace Sys2Proof.Machine

/-! ### Constants (00_scope R9: each literal is the exact rational of its digits) -/

/-- The Lux coefficient M[1][3] = 2.15e-3 (42_color_pipeline R48). -/
def luxCoeff : NumQ := 43 / 20000

/-- The compander's threshold 0.0031308 (42_color_pipeline R54). -/
def compandThreshold : NumQ := 7827 / 2500000

/-- The compander's linear slope 12.92 (42_color_pipeline R54). -/
def compandSlope : NumQ := 323 / 25

/-- The compander's gain 1.055 (42_color_pipeline R54). -/
def compandGain : NumQ := 211 / 200

/-- The compander's offset 0.055 (42_color_pipeline R54). -/
def compandOffset : NumQ := 11 / 200

/-! ### ADC to X, Y, Z, Lux -/

/-- num(ADC): the exact embedding of an ADC value (41_adc_normalizer R47). -/
def numAdc (a : BitVec 35) : NumQ := ((a.toNat : Nat) : NumQ)

/-- M[i][j]: the nine OPEN entries from the configuration, the Lux column and the channel-3 row hardwired
(42_color_pipeline R48). -/
def calM (o : Mat3 NumQ) (i j : Fin 4) : NumQ :=
  match i, j with
  | 0, 0 => o.e00
  | 0, 1 => o.e01
  | 0, 2 => o.e02
  | 0, 3 => 0
  | 1, 0 => o.e10
  | 1, 1 => o.e11
  | 1, 2 => o.e12
  | 1, 3 => luxCoeff
  | 2, 0 => o.e20
  | 2, 1 => o.e21
  | 2, 2 => o.e22
  | 2, 3 => 0
  | 3, _ => 0

/-- out[j] of the fixed matrix multiply, accumulated in channel order (42_color_pipeline R49). -/
def matmulOut (o : Mat3 NumQ) (a : Quad (BitVec 35)) (j : Fin 4) : NumQ :=
  ((numAdc a.c0 * calM o 0 j + numAdc a.c1 * calM o 1 j) + numAdc a.c2 * calM o 2 j) + numAdc a.c3 * calM o 3 j

/-- Unit MATMUL (42_color_pipeline R49). -/
def matmul (o : Mat3 NumQ) (s : State) : Run State := do
  let a ← readAdc s
  .ok (s.upd fun w => { w with
    x := some (matmulOut o a 0), y := some (matmulOut o a 1), z := some (matmulOut o a 2), lux := some (matmulOut o a 3) })

/-- num(ADC[1]) * M[1][3] (42_color_pipeline R50). -/
def luxOf (a : BitVec 35) : NumQ := numAdc a * luxCoeff

/-- Unit LUXSC (42_color_pipeline R50). -/
def luxsc (s : State) : Run State := do
  let a ← need (.adc 1) (s.work.adc.get 1)
  .ok (s.upd fun w => { w with lux := some (luxOf a) })

/-! ### XYZ to xy -/

/-- Chromaticity (42_color_pipeline R51): no value when the sum (X + Y) + Z is zero. -/
def chromaticity (x y z : NumQ) : Option (NumQ × NumQ) :=
  let sum := (x + y) + z
  if sum = 0 then none else some (x / sum, y / sum)

/-- Unit XYCONV (42_color_pipeline R51). On a zero sum it raises DomainError; CRCERR goes with it, since all eight reads
have succeeded (45_operations R67). -/
def xyconv (s : State) : Run State := do
  let x ← need .x s.work.x
  let y ← need .y s.work.y
  let z ← need .z s.work.z
  match chromaticity x y z with
  | none => do
    let e ← crcerrAll s
    raise .domainError (some e) s
  | some (cx, cy) => .ok (s.upd fun w => { w with cx := some cx, cy := some cy })

/-! ### XYZ to RGB -/

/-- WPNORM (42_color_pipeline R52): Z is divided by WY, not by WZ. -/
def wpnorm (wx wy : NumQ) (x y z : NumQ) : NumQ × NumQ × NumQ := (x / wx, y / wy, z / wy)

/-- One row of RGBMAT (42_color_pipeline R53). -/
def rgbmatRow (m0 m1 m2 : NumQ) (n : NumQ × NumQ × NumQ) : NumQ := (m0 * n.1 + m1 * n.2.1) + m2 * n.2.2

/-- RGBMAT (42_color_pipeline R53). -/
def rgbmat (m : Mat3 NumQ) (n : NumQ × NumQ × NumQ) : NumQ × NumQ × NumQ :=
  (rgbmatRow m.e00 m.e01 m.e02 n, rgbmatRow m.e10 m.e11 m.e12 n, rgbmatRow m.e20 m.e21 m.e22 n)

/-- COMPAND, the sRGB transfer function over a realisation of the power (42_color_pipeline R54). -/
def compand (pow : Config.Pow512) (v : NumQ) : NumQ :=
  if v ≤ compandThreshold then compandSlope * v else compandGain * pow.fn v - compandOffset

/-- COMPAND_FN (42_color_pipeline R54; 92 D18). -/
def compandFn (f : CompandSel) (pow : Nat) (v : NumQ) : NumQ :=
  match f with
  | .srgb => compand (Config.pow512 pow) v
  | .other n => Config.otherCompand n v

/-- CLAMP (42_color_pipeline R55). -/
def clamp (v : NumQ) : NumQ := if v < 0 then 0 else if 1 < v then 1 else v

/-- One colour channel after the matrix: compand, then clamp (42_color_pipeline R56). -/
def finishColour (c : RgbCfg) (v : NumQ) : NumQ := clamp (compandFn c.compandFn c.pow512 v)

/-- The linear colour: normalize, then matrix (42_color_pipeline R56). -/
def linearRgb (c : RgbCfg) (x y z : NumQ) : NumQ × NumQ × NumQ := rgbmat c.mrgb (wpnorm c.wx c.wy x y z)

/-- Unit XYZ2RGB (42_color_pipeline R56). -/
def xyz2rgb (c : RgbCfg) (s : State) : Run State := do
  let x ← need .x s.work.x
  let y ← need .y s.work.y
  let z ← need .z s.work.z
  let lin := linearRgb c x y z
  .ok (s.upd fun w => { w with
    r := some (finishColour c lin.1), g := some (finishColour c lin.2.1), b := some (finishColour c lin.2.2) })

/-! ### The operations -/

/-- The steps of RD_XYZ after the four pairs (45_operations R66). -/
def rdXyzTail (o : Mat3 NumQ) (s : State) : Run State := do
  let s ← normq s
  let s ← matmul o s
  let e ← crcerrAll s
  let x ← need .x s.work.x
  let y ← need .y s.work.y
  let z ← need .z s.work.z
  let l ← need .lux s.work.lux
  respond (some e) (.xyz x y z l) s

/-- RD_XYZ (45_operations R66). -/
def execRdXyz (s : State) : Host.Outcome State Fault Refusal :=
  launch .rdXyz s.cfg.coeffs (fun o s => readAllPairs s >>= rdXyzTail o) s

/-- The steps of RD_XY after the four pairs (45_operations R67). -/
def rdXyTail (o : Mat3 NumQ) (s : State) : Run State := do
  let s ← normq s
  let s ← matmul o s
  let s ← xyconv s
  let e ← crcerrAll s
  let cx ← need .cx s.work.cx
  let cy ← need .cy s.work.cy
  respond (some e) (.xy cx cy) s

/-- RD_XY (45_operations R67). -/
def execRdXy (s : State) : Host.Outcome State Fault Refusal :=
  launch .rdXy s.cfg.coeffs (fun o s => readAllPairs s >>= rdXyTail o) s

/-- The steps of RD_LUX after READ_PAIR(1) (45_operations R68). -/
def rdLuxTail (s : State) : Run State := do
  let s ← normAdc 1 s
  let s ← luxsc s
  let e ← crcerrBit 1 s
  let l ← need .lux s.work.lux
  respond (some e) (.lux l) s

/-- RD_LUX (45_operations R68): channel 1 alone. -/
def execRdLux (s : State) : Host.Outcome State Fault Refusal :=
  launch .rdLux s.cfg.plain (fun _ s => readPair 1 s >>= rdLuxTail) s

/-- The steps of RD_RGB after the four pairs (45_operations R69). -/
def rdRgbTail (c : RgbCfg) (s : State) : Run State := do
  let s ← normq s
  let s ← matmul c.coeffs s
  let s ← xyz2rgb c s
  let e ← crcerrAll s
  let r ← need .r s.work.r
  let g ← need .g s.work.g
  let b ← need .b s.work.b
  respond (some e) (.rgb r g b) s

/-- RD_RGB (45_operations R69). -/
def execRdRgb (s : State) : Host.Outcome State Fault Refusal :=
  launch .rdRgb s.cfg.rgb (fun c s => readAllPairs s >>= rdRgbTail c) s

end Sys2Proof.Machine
end

