-- ==== Sys2Proof/Machine/Threshold.lean ====
section
/-! DEFINITION. The threshold codec, units THRDEC, THRENC, THRADC (43_threshold), and the operations RD_THR and WR_THR
(45_operations R70, R71). -/

namespace Sys2Proof.Machine

/-- THRDEC: (TEXP, TMANT) of a threshold word (43_threshold R58). -/
def thrdec (w : Word) : BitVec 4 × BitVec 12 := (thrExpField w, thrMantField w)

/-- The threshold word {e, m} (43_threshold R59). -/
def thrWord (mant : BitVec 12) (exp : BitVec 4) : Word := exp ++ mant

/-- Unit THRENC (43_threshold R59). -/
def threnc (mant : BitVec 12) (exp : BitVec 4) (s : State) : State :=
  s.upd fun w => { w with thr := some (thrWord mant exp) }

/-- THRADC: TMANT << TEXP in 27 bits (43_threshold R60). -/
def thradc (mant : BitVec 12) (exp : BitVec 4) : BitVec 27 := mant.zeroExtend 27 <<< exp.toNat

/-- `THR <- a.word` of the read of RD_THR (45_operations R70). -/
def readThreshold (sel : BitVec 4) (s : State) : Run State := do
  let (a, s) ← memRead (cmdThreshold sel) s
  .ok (s.upd fun w => { w with thr := some a })

/-- The steps of RD_THR after the read (45_operations R70). CRCERR is not part of this response. -/
def rdThrTail (s : State) : Run State := do
  let thr ← need .thr s.work.thr
  let (texp, tmant) := thrdec thr
  respond none (.threshold texp tmant (thradc tmant texp)) s

/-- RD_THR which (45_operations R70). -/
def execRdThr (sel : BitVec 4) (s : State) : Host.Outcome State Fault Refusal :=
  launch (.rdThr sel) s.cfg.plain (fun _ s => readThreshold sel s >>= rdThrTail) s

/-- `THR <- DATA` and the write of THR (45_operations R71). -/
def writeThreshold (sel : BitVec 4) (mant : BitVec 12) (exp : BitVec 4) (s : State) : Run State := do
  let s := threnc mant exp s
  let thr ← need .thr s.work.thr
  memWrite (cmdThreshold sel) thr s

/-- WR_THR which, mant, exp (45_operations R71). The register is not read back. -/
def execWrThr (sel : BitVec 4) (mant : BitVec 12) (exp : BitVec 4) (s : State) : Host.Outcome State Fault Refusal :=
  launch (.wrThr sel mant exp) s.cfg.plain (fun _ s => writeThreshold sel mant exp s >>= respond none .none) s

end Sys2Proof.Machine
end

