-- ==== Sys2Proof/Machine/Dispatch.lean ====
section
/-! DEFINITION. The meaning of every operation: one arm per constructor of Instr (30_encoding R36). -/

namespace Sys2Proof.Machine

def exec (i : Instr) (s : State) : Host.Outcome State Fault Refusal :=
  match i with
  | .rdCh sel => Sys2Proof.Machine.execRdCh sel s
  | .rdAll => Sys2Proof.Machine.execRdAll s
  | .rdAdc => Sys2Proof.Machine.execRdAdc s
  | .rdXyz => Sys2Proof.Machine.execRdXyz s
  | .rdXy => Sys2Proof.Machine.execRdXy s
  | .rdLux => Sys2Proof.Machine.execRdLux s
  | .rdRgb => Sys2Proof.Machine.execRdRgb s
  | .rdThr sel => Sys2Proof.Machine.execRdThr sel s
  | .wrThr sel mant exp => Sys2Proof.Machine.execWrThr sel mant exp s

end Sys2Proof.Machine
end

