-- ==== Sys2Proof/Machine/Step.lean ====
section
/-! DEFINITION. One step of the machine: the next host event (45_operations R61; logs 1, 2). -/

namespace Sys2Proof.Machine

/-- The block takes the next host event; a request is run to its end. -/
def step (s : State) : Host.Outcome State Fault Refusal :=
  match fetch s with
  | .done o => o
  | .run i s' => exec i s'

/-- `s` with the request word presented next: the block fetches no instructions (10_state R14), the host presents them. -/
def State.withFetchWord (s : State) (nbits w : Nat) : State :=
  { s with host := .request (BitVec.ofNat 24 (w % 2 ^ nbits)) :: s.host }

end Sys2Proof.Machine
end

