-- ==== Sys2Proof/Safety.lean ====
section
/-! DEFINITION. The terms in which claims are stated: what the link answers, which transactions an operation issues, the
state an operation leaves, the idle state, and the invariant of the machine. -/

namespace Sys2Proof.Machine

/-! ### What the link answers -/

/-- The word of an event that is an Ok answer. -/
def linkWord : LinkEvent → Option Word
  | .answer (.ok b0 b1) => some (wordOfBytes b0 b1)
  | .answer (.err _) => none
  | .host _ => none

/-- The next transactions are answered Ok with the words `ws`, in order. -/
def State.answers (s : State) (ws : List Word) : Prop := ∀ n < ws.length, linkWord (s.linkEvent n) = ws[n]?

/-- The next `n` transactions are answered Ok. -/
def State.okUpTo (s : State) (n : Nat) : Prop := ∀ m < n, (linkWord (s.linkEvent m)).isSome

/-- The next `n` transactions meet the link's answers only: no host event lands among them. -/
def State.quiet (s : State) (n : Nat) : Prop := ∀ m < n, ∃ a, s.linkEvent m = .answer a

/-! ### The transactions of an operation -/

/-- The reads of one channel's pair, in order (45_operations R62). -/
def pairReads (dev : Nat) (ch : Fin 4) : List Transaction := [.read dev (cmdResult1 ch), .read dev (cmdResult2 ch)]

/-- The eight reads 0x00..0x07, in order (45_operations R64). -/
def allReads (dev : Nat) : List Transaction := pairReads dev 0 ++ pairReads dev 1 ++ pairReads dev 2 ++ pairReads dev 3

/-- The transactions of an operation when every one answers Ok, in order (45_operations R63 to R71). -/
def transactionsOf (dev : Nat) : Instr → List Transaction
  | .rdCh sel => pairReads dev (chanOf sel)
  | .rdAll => allReads dev
  | .rdAdc => allReads dev
  | .rdXyz => allReads dev
  | .rdXy => allReads dev
  | .rdLux => pairReads dev 1
  | .rdRgb => allReads dev
  | .rdThr sel => [.read dev (cmdThreshold sel)]
  | .wrThr sel mant exp => [.write dev (cmdThreshold sel) (exp ++ mant)]

/-- CFG is well formed in what the operation reads (10_state R11). -/
def configuredFor (c : Cfg) : Instr → Bool
  | .rdCh _ => true
  | .rdAll => true
  | .rdAdc => true
  | .rdXyz => c.coeffs.isSome
  | .rdXy => c.coeffs.isSome
  | .rdLux => true
  | .rdRgb => c.rgb.isSome
  | .rdThr _ => true
  | .wrThr _ _ _ => true

/-- A matrix whose every entry holds a value. -/
def Mat3.values (o : Mat3 NumQ) : Mat3 (Option NumQ) :=
  ⟨some o.e00, some o.e01, some o.e02, some o.e10, some o.e11, some o.e12, some o.e20, some o.e21, some o.e22⟩

/-! ### What a pair of words means (30_encoding R30 to R32; 41_adc_normalizer R45) -/

/-- EXP of a pair. -/
def pairExp (w1 : Word) : BitVec 4 := w1.extractLsb' 12 4

/-- MANT of a pair: {W1[11:0], W2[15:8]}. -/
def pairMant (w1 w2 : Word) : BitVec 20 := w1.extractLsb' 0 12 ++ w2.extractLsb' 8 8

/-- CNT of a pair. -/
def pairCnt (w2 : Word) : BitVec 4 := w2.extractLsb' 4 4

/-- The CRC field of a pair. -/
def pairCrcField (w2 : Word) : BitVec 4 := w2.extractLsb' 0 4

/-- The CRC computed over a pair (40_reassembly_crc R42). -/
def pairCrc (w1 w2 : Word) : BitVec 4 := crcOf (pairExp w1) (pairMant w1 w2) (pairCnt w2)

/-- The CRC error flag of a pair (40_reassembly_crc R43). -/
def pairFlag (w1 w2 : Word) : Bool := pairCrc w1 w2 != pairCrcField w2

/-- The flag as bit ch of a CRCERR field (30_encoding R38). -/
def flagBit (ch : Nat) (w1 w2 : Word) : BitVec 4 := if pairFlag w1 w2 then (1#4) <<< ch else 0#4

/-- MANT * 2^EXP of a pair, the exact integer (41_adc_normalizer R45). -/
def pairAdc (w1 w2 : Word) : Nat := (pairMant w1 w2).toNat * 2 ^ (pairExp w1).toNat

/-! ### What an operation leaves -/

/-- The state after an operation that issued the transactions `txns` and delivered the response `r`: the block is idle,
nothing of the operation remains, and everything else is as it was. -/
def State.afterResponse (s : State) (txns : List Transaction) (r : Response) : State :=
  { s with busy := false, op := none, seq := none, work := .empty, link := s.link.drop txns.length,
           issued := s.issued ++ txns, delivered := s.delivered ++ [r] }

/-- The response of a hard error of the link: STATUS and nothing else (60_exceptions R74). -/
def errorResponse (k : LinkError) : Response := ⟨k.status.code, none, .none⟩

/-- The operation ends at its first failing transaction, whichever it is: no later transaction is issued and the response
is the error's STATUS and nothing else (45_operations R61, R62; 60_exceptions R74). -/
def EndsAtFirstFailure (i : Instr) (s : State) : Prop :=
  ∀ n k, n < (transactionsOf s.cfg.devAddr i).length → s.okUpTo n → s.linkEvent n = .answer (.err k) →
    exec i s = .next (s.afterResponse ((transactionsOf s.cfg.devAddr i).take (n + 1)) (errorResponse k))

/-! ### Legal request words (30_encoding R36, R37) -/

/-- A word that no clause of R37 makes a contract violation, in numbers: OPSEL in 0..8, SEL in its legal set, DATA 0 but
for WR_THR. -/
def legalRequest (w : Req24) : Prop :=
  let opsel := w.toNat / 2 ^ 20
  let sel := w.toNat / 2 ^ 16 % 16
  let data := w.toNat % 2 ^ 16
  opsel ≤ 8 ∧ (if opsel = 0 then sel ≤ 3 else if opsel = 7 ∨ opsel = 8 then sel ≤ 1 else sel = 0) ∧
    (opsel ≠ 8 → data = 0)

/-! ### Safe runs -/

/-- No operation is in flight and no register holds a value (10_state R16, 60_exceptions R80). -/
def State.Idle (s : State) : Prop := s.busy = false ∧ s.op = none ∧ s.seq = none ∧ s.work = .empty

/-- The block issues reads of 0x00..0x09 and writes of 0x08 and 0x09 only (20_memory R19, R26; 30_encoding R34). -/
def Transaction.legal : Transaction → Bool
  | .read _ cmd => cmd.toNat ≤ 0x09
  | .write _ cmd _ => cmd.toNat == 0x08 || cmd.toNat == 0x09

/-- R, G and B are in [0, 1]; other payloads have no such bound (10_state R15, 42_color_pipeline R56). -/
def Payload.inRange : Payload → Bool
  | .rgb r g b => 0 ≤ r && r ≤ 1 && 0 ≤ g && g ≤ 1 && 0 ≤ b && b ≤ 1
  | _ => true

/-- A response as 30_encoding R38 allows it: STATUS is 0, 1, 2, 3, 4 or 6; CRCERR only with 0 or 6; a payload only with 0;
colours in [0, 1]. -/
def Response.legal (r : Response) : Bool :=
  (r.status == 0 || r.status == 1 || r.status == 2 || r.status == 3 || r.status == 4 || r.status == 6) &&
    (r.crcerr.isNone || r.status == 0 || r.status == 6) && (r.payload == .none || r.status == 0) && r.payload.inRange

/-- The invariant of the machine between steps: idle, and all that was issued and delivered is as the spec allows. -/
def State.Inv (s : State) : Prop :=
  s.Idle ∧ (∀ t ∈ s.issued, t.legal = true) ∧ (∀ r ∈ s.delivered, r.legal = true)

end Sys2Proof.Machine
end

