-- ==== Sys2Proof/Certificates/Slice0/Obligations.lean ====
section
/-! DEFINITION. The statements for the provers. `s.afterResponse txns r` is the whole next state: what it does not name is
unchanged, so every statement with such a conclusion states its frame. -/

open Sys2Proof Sys2Proof.Machine

/-! ### Requests: encoding, decoding, contract violations (30_encoding R35 to R37) -/

/-- Decode and encode agree on every well-formed operation, with every operand. -/
def Obligations.DecodeOfEncodeReturnsTheInstruction : Prop :=
  ∀ i : Instr, i.WellFormed → decode (encode i) = .ok i

/-- Every accepted word is the encoding of the well-formed operation it decodes to: no bit of it is dropped. -/
def Obligations.EncodeOfDecodeReturnsTheWord : Prop :=
  ∀ (w : Req24) (i : Instr), decode w = .ok i → i.WellFormed ∧ encode i = w

/-- R37 (a), (b), (c) for the decoder: a word is accepted exactly when no clause makes it a violation. -/
def Obligations.RequestsAreAcceptedExactlyWhenLegal : Prop :=
  ∀ w : Req24, (∃ i, decode w = .ok i) ↔ legalRequest w

/-- The match and mask columns of the operation map: an accepted word matches the row of the operation it decodes to, and
no other operation's row. -/
def Obligations.AcceptedWordsMatchExactlyTheirTableRow : Prop :=
  ∀ (w : Req24) (i : Instr), decode w = .ok i →
    ∀ j : Instr, w &&& (tableRow j).2 = (tableRow j).1 ↔ tableRow j = tableRow i

/-- Words of 95_test_vectors P1 to P7 and of the operation map, written out. -/
def Obligations.SampleRequestWordsDecode : Prop :=
  decode 0x000000 = .ok (.rdCh 0) ∧ decode 0x030000 = .ok (.rdCh 3) ∧ decode 0x100000 = .ok .rdAll ∧
  decode 0x200000 = .ok .rdAdc ∧ decode 0x300000 = .ok .rdXyz ∧ decode 0x400000 = .ok .rdXy ∧
  decode 0x500000 = .ok .rdLux ∧ decode 0x600000 = .ok .rdRgb ∧ decode 0x710000 = .ok (.rdThr 1) ∧
  decode 0x813208 = .ok (.wrThr 1 0x208 3) ∧ decode 0x81FFFF = .ok (.wrThr 1 0xFFF 15) ∧
  decode 0x040000 = .error .illegalSel ∧ decode 0x900000 = .error .reservedOpsel ∧
  decode 0x720000 = .error .illegalSel ∧ decode 0x100001 = .error .nonzeroData

/-- A request that breaks the contract is a fault: the step gives no next state, so no transaction is issued and no
response is delivered. -/
def Obligations.ContractViolationsAreFaults : Prop :=
  (∀ (s : State) (w : Req24) (rest : List HostEvent), s.host = .request w :: rest → s.busy = false →
    ¬ legalRequest w → ∃ v, step s = .fault (.contractViolation v)) ∧
  (∀ (i : Instr) (s : State), s.busy = false → ¬ i.WellFormed → ∃ v, exec i s = .fault (.contractViolation v))

/-! ### The step and the host's events -/

/-- A step runs the decoded operation: the request is taken from the host's list, and exec runs in that state. -/
def Obligations.StepRunsTheDecodedInstruction : Prop :=
  ∀ (s : State) (w : Req24) (rest : List HostEvent) (i : Instr),
    s.host = .request w :: rest → s.busy = false → decode w = .ok i → step s = exec i { s with host := rest }

/-- The steps that run no operation: with nothing presented nothing changes (the model's choice, log 20), and a
configuration presented to an idle block replaces CFG and nothing else. -/
def Obligations.StepsWithoutARequest : Prop :=
  (∀ s : State, s.host = [] → step s = .next s) ∧
  (∀ (s : State) (c : Cfg) (rest : List HostEvent), s.host = .configure c :: rest → s.busy = false →
    step s = .next { s with cfg := c, host := rest })

/-- Accept (R61 (1)): the request is latched in OP, BUSY = 1, SEQ = 0, no working register holds a value; nothing else
changes. -/
def Obligations.AcceptLatchesTheRequest : Prop :=
  ∀ (s : State) (w : Req24),
    s.accept w = { s with busy := true, op := some w, seq := some 0,
                          work := { w1 := none, w2 := none, rd := ⟨none, none, none, none⟩,
                                    crcc := ⟨none, none, none, none⟩, crcerr := ⟨none, none, none, none⟩,
                                    adc := ⟨none, none, none, none⟩, x := none, y := none, z := none, lux := none,
                                    cx := none, cy := none, r := none, g := none, b := none, thr := none,
                                    status := none } }

/-- R16: after reset the block is idle, OP, SEQ and every working register hold no value, the hardwired entries of M are
present and COMPAND_FN is the default. (The OPEN entries are the model's choice, log 5, and are not stated.) -/
def Obligations.ResetLeavesTheBlockIdleAndEmpty : Prop :=
  State.reset.busy = false ∧ State.reset.op = none ∧ State.reset.seq = none ∧
  State.reset.work = { w1 := none, w2 := none, rd := ⟨none, none, none, none⟩,
                       crcc := ⟨none, none, none, none⟩, crcerr := ⟨none, none, none, none⟩,
                       adc := ⟨none, none, none, none⟩, x := none, y := none, z := none, lux := none,
                       cx := none, cy := none, r := none, g := none, b := none, thr := none, status := none } ∧
  State.reset.cfg.compandFn = .srgb ∧ State.reset.issued = [] ∧
  (∀ o : Mat3 NumQ, calM o 0 3 = 0 ∧ calM o 1 3 = 43 / 20000 ∧ calM o 2 3 = 0 ∧ ∀ j, calM o 3 j = 0)

/-- R84: a reset makes the block idle, delivers no response and issues no transaction of its own, whether it comes between
operations or while any transaction of an operation is outstanding (that transaction was issued, and is abandoned). CFG takes
its reset values (R16): COMPAND_FN is the default (R11); the OPEN entries are the model's choice (log 5) and are not stated. -/
def Obligations.ResetEndsWhateverIsInFlight : Prop :=
  (∀ (s : State) (rest : List HostEvent), s.host = .reset :: rest →
    ∃ t, step s = .next t ∧ t.Idle ∧ t.cfg.compandFn = .srgb ∧ t.issued = s.issued ∧ t.delivered = s.delivered ∧
      t.host = rest) ∧
  (∀ (i : Instr) (s : State) (n : Nat), i.WellFormed → s.busy = false → configuredFor s.cfg i = true →
    n < (transactionsOf s.cfg.devAddr i).length → s.okUpTo n → s.linkEvent n = .host .reset →
    ∃ t, exec i s = .next t ∧ t.Idle ∧ t.cfg.compandFn = .srgb ∧
      t.issued = s.issued ++ (transactionsOf s.cfg.devAddr i).take (n + 1) ∧ t.delivered = s.delivered)

/-- R86: a request presented while BUSY = 1 has no meaning; the model refuses it (as R86 recommends; log 22), presented to a busy block or landing while
a transaction of an operation is outstanding. -/
def Obligations.RequestWhileBusyIsRefused : Prop :=
  (∀ (i : Instr) (s : State), s.busy = true → exec i s = .refused .requestWhileBusy) ∧
  (∀ (s : State) (w : Req24) (rest : List HostEvent), s.host = .request w :: rest → s.busy = true →
    step s = .refused .requestWhileBusy) ∧
  (∀ (i : Instr) (s : State) (n : Nat) (w : Req24), i.WellFormed → s.busy = false → configuredFor s.cfg i = true →
    n < (transactionsOf s.cfg.devAddr i).length → s.okUpTo n → s.linkEvent n = .host (.request w) →
    exec i s = .refused .requestWhileBusy)

/-- R88: CFG does not change between the acceptance of an operation and its response, when no host event lands among its
transactions. That a configuration which would change it is refused is the model's choice (log 22). -/
def Obligations.ConfigurationIsStaticDuringAnOperation : Prop :=
  (∀ (i : Instr) (s t : State), exec i s = .next t → s.quiet (transactionsOf s.cfg.devAddr i).length → t.cfg = s.cfg) ∧
  (∀ (s : State) (c : Cfg) (rest : List HostEvent), s.host = .configure c :: rest → s.busy = true →
    step s = .refused .configureWhileBusy) ∧
  (∀ (i : Instr) (s : State) (n : Nat) (c : Cfg), i.WellFormed → s.busy = false → configuredFor s.cfg i = true →
    n < (transactionsOf s.cfg.devAddr i).length → s.okUpTo n → s.linkEvent n = .host (.configure c) →
    exec i s = .refused .configureWhileBusy)

/-- R11: when the model refuses a launch for its configuration. RD_XYZ and RD_XY want all nine OPEN entries of M; RD_RGB
wants them, MRGB, POW512 and nonzero WX and WY; no other operation is ever refused so. -/
def Obligations.IllFormedConfigurationsAreRefused : Prop :=
  (∀ (i : Instr) (s : State), i = .rdXyz ∨ i = .rdXy → s.busy = false →
    (exec i s = .refused .illFormedConfig ↔ ¬ ∃ o : Mat3 NumQ, s.cfg.m = Mat3.values o)) ∧
  (∀ s : State, s.busy = false →
    (exec .rdRgb s = .refused .illFormedConfig ↔
      ¬ ∃ (o g : Mat3 NumQ) (wx wy : NumQ) (p : Nat), s.cfg.m = Mat3.values o ∧ s.cfg.mrgb = Mat3.values g ∧
        s.cfg.wx = some wx ∧ s.cfg.wy = some wy ∧ s.cfg.pow512 = some p ∧ wx ≠ 0 ∧ wy ≠ 0)) ∧
  (∀ (i : Instr) (s : State), i ≠ .rdXyz → i ≠ .rdXy → i ≠ .rdRgb → exec i s ≠ .refused .illFormedConfig)

/-! ### The link (20_memory) -/

/-- R19, R34: the command codes {0b0000, 0b0, ch[1:0], half} and 0x08 + which, and the registers they name in the map. -/
def Obligations.CommandCodesNameTheRegisters : Prop :=
  (∀ ch : Fin 4, cmdResult1 ch = 0#5 ++ BitVec.ofNat 2 ch.val ++ 0#1 ∧
    cmdResult2 ch = 0#5 ++ BitVec.ofNat 2 ch.val ++ 1#1 ∧
    deviceReg (cmdResult1 ch) = some (.result1 ch) ∧ deviceReg (cmdResult2 ch) = some (.result2 ch)) ∧
  cmdThreshold 0 = 0x08 ∧ cmdThreshold 1 = 0x09 ∧
  deviceReg (cmdThreshold 0) = some .lowThreshold ∧ deviceReg (cmdThreshold 1) = some .highThreshold

/-- R21 with R20: a read answered by the bytes b0, b1 goes on with the word b0 * 256 + b1, and SEQ counts it; it has been
issued once, with DEVADDR, and nothing else has changed. -/
def Obligations.ReadTransactionCombinesBytesHighFirst : Prop :=
  ∀ (cmd : Cmd) (s : State) (b0 b1 : Byte), s.linkEvent 0 = .answer (.ok b0 b1) →
    ∃ w : Word, w.toNat = b0.toNat * 256 + b1.toNat ∧
      memRead cmd s = .ok (w, { s with issued := s.issued ++ [.read s.cfg.devAddr cmd], link := s.link.drop 1,
                                       seq := s.seq.map (· + 1) })

/-- R26 with the byte order of 92 D25: a write goes on when it is answered Ok, ends the operation when it is not, changes
nothing else, and sends the command code and then the word, high byte first. -/
def Obligations.WriteTransactionCarriesTheWord : Prop :=
  ∀ (cmd : Cmd) (w : Word) (s : State),
    (∀ b0 b1, s.linkEvent 0 = .answer (.ok b0 b1) →
      memWrite cmd w s = .ok { s with issued := s.issued ++ [.write s.cfg.devAddr cmd w], link := s.link.drop 1,
                                      seq := s.seq.map (· + 1) }) ∧
    (∀ k, s.linkEvent 0 = .answer (.err k) →
      memWrite cmd w s = .error (.ended { s with
        busy := false, op := none, seq := none, work := Work.empty, link := s.link.drop 1,
        issued := s.issued ++ [.write s.cfg.devAddr cmd w], delivered := s.delivered ++ [errorResponse k] })) ∧
    ∃ hi lo : Byte, (Transaction.write s.cfg.devAddr cmd w).bytesSent = [cmd, hi, lo] ∧
      w.toNat = hi.toNat * 256 + lo.toNat

/-- R79, R74: taking an exception. STATUS is the cause's code, every other working register is discarded, no further
transaction is issued, the response is delivered, BUSY becomes 0; and every operation takes it so at its first failing
transaction, with the link's own error kind. -/
def Obligations.ExceptionEntryEndsTheOperation : Prop :=
  (∀ (i : Instr) (s : State), i.WellFormed → s.busy = false → configuredFor s.cfg i = true → EndsAtFirstFailure i s) ∧
  ∀ (k : Status) (crcerr : Option (BitVec 4)) (s : State),
    (raise k crcerr s : Run State) =
      .error (.ended { s with busy := false, op := none, seq := none, work := Work.empty,
                              delivered := s.delivered ++ [⟨k.code, crcerr, .none⟩] })

/-- R38: the numbers of STATUS, and which of them a link error has. -/
def Obligations.StatusNumbers : Prop :=
  Status.code .none = 0 ∧ Status.code .timeout = 1 ∧ Status.code .nackOnAddress = 2 ∧ Status.code .nackOnData = 3 ∧
  Status.code .transportUnknown = 4 ∧ Status.code .crcMismatch = 5 ∧ Status.code .domainError = 6 ∧
  Status.code .contractViolation = 7 ∧ errorResponse .timeout = ⟨1, none, .none⟩ ∧
  errorResponse .nackOnAddress = ⟨2, none, .none⟩ ∧ errorResponse .nackOnData = ⟨3, none, .none⟩ ∧
  errorResponse .transportUnknown = ⟨4, none, .none⟩

/-! ### Units REASM, CRC4, CRCCHK, NORM (40_reassembly_crc, 41_adc_normalizer) -/

/-- R41: REASM writes RD[ch] = {EXP, MANT, CNT, CRC} = {W1, W2} and nothing else, whatever the two words. -/
def Obligations.ReassemblyIsTheFieldSplit : Prop :=
  ∀ (ch : Fin 4) (s : State) (w1 w2 : Word), s.work.w1 = some w1 → s.work.w2 = some w2 →
    ∃ rd : BitVec 32, rd = w1 ++ w2 ∧ rdExp rd = pairExp w1 ∧ rdMant rd = pairMant w1 w2 ∧ rdCnt rd = pairCnt w2 ∧
      rdCrc rd = pairCrcField w2 ∧
      (rdMant rd).toNat = (w1.toNat % 4096) * 256 + w2.toNat / 256 ∧
      reasm ch s = .ok { s with work := { s.work with rd := s.work.rd.set ch (some rd) } }

/-- R42: the tap table, bit by bit, and the register CRC4 writes. -/
def Obligations.CrcFollowsTheTapTable : Prop :=
  (∀ (e : BitVec 4) (r : BitVec 20) (c : BitVec 4),
    (crcOf e r c).getLsbD 0 = (e.getLsbD 0 ^^ e.getLsbD 2 ^^
      (r.getLsbD 0 ^^ r.getLsbD 2 ^^ r.getLsbD 4 ^^ r.getLsbD 6 ^^ r.getLsbD 8 ^^ r.getLsbD 10 ^^ r.getLsbD 12 ^^
        r.getLsbD 14 ^^ r.getLsbD 16 ^^ r.getLsbD 18) ^^ c.getLsbD 0 ^^ c.getLsbD 2) ∧
    (crcOf e r c).getLsbD 1 = (e.getLsbD 1 ^^ e.getLsbD 3 ^^
      (r.getLsbD 1 ^^ r.getLsbD 3 ^^ r.getLsbD 5 ^^ r.getLsbD 7 ^^ r.getLsbD 9 ^^ r.getLsbD 11 ^^ r.getLsbD 13 ^^
        r.getLsbD 15 ^^ r.getLsbD 17 ^^ r.getLsbD 19) ^^ c.getLsbD 1 ^^ c.getLsbD 3) ∧
    (crcOf e r c).getLsbD 2 = (e.getLsbD 3 ^^
      (r.getLsbD 3 ^^ r.getLsbD 7 ^^ r.getLsbD 11 ^^ r.getLsbD 15 ^^ r.getLsbD 19) ^^ c.getLsbD 3) ∧
    (crcOf e r c).getLsbD 3 = (r.getLsbD 3 ^^ r.getLsbD 11 ^^ r.getLsbD 19)) ∧
  (∀ (ch : Fin 4) (s : State) (rd : BitVec 32), s.work.rd.get ch = some rd →
    crc4 ch s = .ok { s with work := { s.work with
      crcc := s.work.crcc.set ch (some (crcOf (rdExp rd) (rdMant rd) (rdCnt rd))) } })

/-- R44 (the spec derives it from R42): the taps are the masks 0x5555555, 0xAAAAAAA, 0x8888888, 0x0808080 on
D = {E, R, C}, which is RD[31:4]. -/
def Obligations.CrcTapsAreMasksOnTheConcatenation : Prop :=
  ∀ rd : BitVec 32, crcOf (rdExp rd) (rdMant rd) (rdCnt rd) = crcByMasks (rd.extractLsb' 4 28)

/-- Every single-bit error in exponent, mantissa or counter changes the CRC (derived in R42 from the tap table). -/
def Obligations.SingleBitErrorsChangeTheCrc : Prop :=
  ∀ (rd : BitVec 32) (i : Nat), 4 ≤ i → i < 32 →
    let rd' := rd ^^^ (1#32 <<< i)
    crcOf (rdExp rd') (rdMant rd') (rdCnt rd') ≠ crcOf (rdExp rd) (rdMant rd) (rdCnt rd)

/-- R43: CRCCHK writes CRCERR[ch], 1 exactly when the computed CRC differs from the CRC field, and nothing else; of the
sixteen CRC fields a reading can have, exactly one gives 0. -/
def Obligations.CrcCheckWritesTheFlagOnly : Prop :=
  (∀ (ch : Fin 4) (s : State) (rd : BitVec 32) (crcc : BitVec 4), s.work.rd.get ch = some rd →
    s.work.crcc.get ch = some crcc →
    crcchk ch s = .ok { s with work := { s.work with
      crcerr := s.work.crcerr.set ch (some (decide (crcc ≠ rd.extractLsb' 0 4))) } }) ∧
  (∀ w1 w2 : Word, ∃! f : BitVec 4, pairFlag w1 (w2.extractLsb' 4 12 ++ f) = false)

/-- R45: NORM writes ADC[ch] = MANT * 2^EXP, exact in 35 bits, and nothing else; the largest value is 34359705600. -/
def Obligations.AdcIsMantissaTimesTwoToTheExponent : Prop :=
  ∀ (ch : Fin 4) (s : State) (rd : BitVec 32), s.work.rd.get ch = some rd →
    ∃ a : BitVec 35, a.toNat = (rdMant rd).toNat * 2 ^ (rdExp rd).toNat ∧ a.toNat ≤ 34359705600 ∧
      normAdc ch s = .ok { s with work := { s.work with adc := s.work.adc.set ch (some a) } }

/-- The shift as a pipeline of four conditional shifts (derived in R45). -/
def Obligations.AdcShiftPipelineAgrees : Prop :=
  ∀ (mant : BitVec 20) (exp : BitVec 4), adcStaged mant exp = adcOf mant exp

/-- R46: NORMQ normalises the four readings, each on its own. -/
def Obligations.NormqNormalisesAllFourChannels : Prop :=
  ∀ (s : State) (r : Quad (BitVec 32)), s.work.rd = ⟨some r.c0, some r.c1, some r.c2, some r.c3⟩ →
    ∃ a : Quad (BitVec 35),
      (∀ ch : Fin 4, (a.get ch).toNat = (rdMant (r.get ch)).toNat * 2 ^ (rdExp (r.get ch)).toNat) ∧
      normq s = .ok { s with work := { s.work with adc := ⟨some a.c0, some a.c1, some a.c2, some a.c3⟩ } }

/-! ### The colour pipeline (42_color_pipeline) -/

/-- R49: MATMUL writes X, Y, Z and LUX, the sums over the channels in order, and nothing else. -/
def Obligations.MatrixMultiplyWritesXyzAndLux : Prop :=
  ∀ (o : Mat3 NumQ) (s : State) (a0 a1 a2 a3 : BitVec 35), s.work.adc = ⟨some a0, some a1, some a2, some a3⟩ →
    matmul o s = .ok { s with work := { s.work with
      x := some ((((a0.toNat : NumQ) * o.e00 + a1.toNat * o.e10) + a2.toNat * o.e20) + a3.toNat * 0),
      y := some ((((a0.toNat : NumQ) * o.e01 + a1.toNat * o.e11) + a2.toNat * o.e21) + a3.toNat * 0),
      z := some ((((a0.toNat : NumQ) * o.e02 + a1.toNat * o.e12) + a2.toNat * o.e22) + a3.toNat * 0),
      lux := some ((((a0.toNat : NumQ) * 0 + a1.toNat * (43 / 20000)) + a2.toNat * 0) + a3.toNat * 0) } }

/-- R50: LUXSC writes LUX = num(ADC[1]) * 43/20000, and RD_LUX and the LUX of RD_XYZ agree on the same channel-1 words. -/
def Obligations.LuxShortcutAgreesWithTheMatrix : Prop :=
  (∀ (s : State) (a : BitVec 35), s.work.adc.get 1 = some a →
    luxsc s = .ok { s with work := { s.work with lux := some ((a.toNat : NumQ) * (43 / 20000)) } }) ∧
  (∀ (s t : State) (a0 b0 a1 b1 a2 b2 a3 b3 : Word) (o : Mat3 NumQ), s.busy = false → t.busy = false →
    s.cfg.m = Mat3.values o → s.answers [a0, b0, a1, b1, a2, b2, a3, b3] → t.answers [a1, b1] →
    ∃ (es et : BitVec 4) (x y z l : NumQ),
      exec .rdXyz s = .next (s.afterResponse (allReads s.cfg.devAddr) ⟨0, some es, .xyz x y z l⟩) ∧
      exec .rdLux t = .next (t.afterResponse (pairReads t.cfg.devAddr 1) ⟨0, some et, .lux l⟩))

/-- Channel 3 is read but never changes X, Y, Z or LUX (derived in R49 from R48). -/
def Obligations.ChannelThreeNeverChangesXyz : Prop :=
  ∀ (s t : State) (a0 b0 a1 b1 a2 b2 a3 b3 a3' b3' : Word) (o : Mat3 NumQ), s.busy = false → t.busy = false →
    s.cfg.m = Mat3.values o → t.cfg.m = Mat3.values o →
    s.answers [a0, b0, a1, b1, a2, b2, a3, b3] → t.answers [a0, b0, a1, b1, a2, b2, a3', b3'] →
    ∃ (p : Payload) (es et : BitVec 4),
      exec .rdXyz s = .next (s.afterResponse (allReads s.cfg.devAddr) ⟨0, some es, p⟩) ∧
      exec .rdXyz t = .next (t.afterResponse (allReads t.cfg.devAddr) ⟨0, some et, p⟩)

/-- R51: XYCONV writes CX = X / S and CY = Y / S and nothing else when S = (X + Y) + Z is not zero, and raises DomainError
with CRCERR and no payload exactly when it is. -/
def Obligations.ChromaticityOrDomainError : Prop :=
  ∀ (s : State) (x y z : NumQ) (f0 f1 f2 f3 : Bool), s.work.x = some x → s.work.y = some y → s.work.z = some z →
    s.work.crcerr = ⟨some f0, some f1, some f2, some f3⟩ →
    ((x + y) + z ≠ 0 → xyconv s = .ok { s with work := { s.work with
      cx := some (x / ((x + y) + z)), cy := some (y / ((x + y) + z)) } }) ∧
    ((x + y) + z = 0 → xyconv s = .error (.ended { s with
      busy := false, op := none, seq := none, work := Work.empty,
      delivered := s.delivered ++
        [⟨6, some (BitVec.ofBool f3 ++ BitVec.ofBool f2 ++ BitVec.ofBool f1 ++ BitVec.ofBool f0), .none⟩] }))

/-- Chromaticity does not change when X, Y, Z are scaled by one nonzero factor, and CX + CY + Z/S = 1 (derived in R51). -/
def Obligations.ChromaticityIsScaleInvariant : Prop :=
  (∀ k x y z : NumQ, k ≠ 0 → chromaticity (k * x) (k * y) (k * z) = chromaticity x y z) ∧
  (∀ x y z cx cy : NumQ, chromaticity x y z = some (cx, cy) → cx + cy + z / ((x + y) + z) = 1)

/-- R52, R53, R55, R56: XYZ2RGB normalizes by the white point (Z by WY), multiplies by MRGB, compands and clamps, in that
order, and writes R, G, B and nothing else. -/
def Obligations.XyzToRgbNormalizesMultipliesCompandsClamps : Prop :=
  ∀ (c : RgbCfg) (s : State) (x y z : NumQ), s.work.x = some x → s.work.y = some y → s.work.z = some z →
    let clamp01 : NumQ → NumQ := fun v => if v < 0 then 0 else if v > 1 then 1 else v
    let colour : NumQ → NumQ → NumQ → NumQ := fun m0 m1 m2 =>
      clamp01 (compandFn c.compandFn c.pow512 ((m0 * (x / c.wx) + m1 * (y / c.wy)) + m2 * (z / c.wy)))
    xyz2rgb c s = .ok { s with work := { s.work with
      r := some (colour c.mrgb.e00 c.mrgb.e01 c.mrgb.e02),
      g := some (colour c.mrgb.e10 c.mrgb.e11 c.mrgb.e12),
      b := some (colour c.mrgb.e20 c.mrgb.e21 c.mrgb.e22) } }

/-- R54: the default companding function, piecewise over the exact rationals, total, with the linear branch at the
threshold itself; COMPAND(0) = 0 and COMPAND(1) = 1. -/
def Obligations.CompanderIsTheSrgbFunction : Prop :=
  ∀ (n : Nat) (v : NumQ),
    (v ≤ 7827 / 2500000 → compandFn .srgb n v = 323 / 25 * v) ∧
    (7827 / 2500000 < v → compandFn .srgb n v = 211 / 200 * (Config.pow512 n).fn v - 11 / 200) ∧
    compandFn .srgb n 0 = 0 ∧ compandFn .srgb n 1 = 1 ∧
    compandFn .srgb n (7827 / 2500000) = 2528121 / 62500000

/-- What R57's P3 gives for the compander (derived): on the power branch it is within 1e-3 of the real sRGB function. -/
def Obligations.CompanderIsCloseToTheRealFunction : Prop :=
  ∀ (n : Nat) (v : NumQ), 7827 / 2500000 < v → v ≤ 1 →
    |((compandFn .srgb n v : NumQ) : ℝ) - (1.055 * (v : ℝ) ^ ((5 : ℝ) / 12) - 0.055)| ≤ 1 / 1000

/-- The corner cases of a colour under the default companding function (derived in R56 from R54, R55 and R57's P1, P4):
at or above 1 it is 1, at or below 0 it is 0, on the linear segment it is 12.92 times the linear value. -/
def Obligations.ColourCornerCases : Prop :=
  ∀ (c : RgbCfg) (v : NumQ), c.compandFn = .srgb →
    (1 ≤ v → finishColour c v = 1) ∧ (v ≤ 0 → finishColour c v = 0) ∧
    (0 < v → v ≤ 7827 / 2500000 → finishColour c v = 323 / 25 * v) ∧
    (∀ v', 7827 / 2500000 < v → v ≤ v' → finishColour c v ≤ finishColour c v')

/-! ### The threshold codec (43_threshold) -/

/-- R58, R59: TEXP = THR[15:12], TMANT = THR[11:0]; THRENC writes THR = (e << 12) | m and nothing else. -/
def Obligations.ThresholdFieldsAndEncoding : Prop :=
  (∀ w : Word, (thrdec w).1.toNat = w.toNat / 4096 ∧ (thrdec w).2.toNat = w.toNat % 4096) ∧
  (∀ (m : BitVec 12) (e : BitVec 4) (s : State), ∃ w : Word, w.toNat = e.toNat * 4096 + m.toNat ∧
    threnc m e s = { s with work := { s.work with thr := some w } })

/-- THRDEC and THRENC undo each other (derived in R59 from R58). -/
def Obligations.ThresholdCodecRoundTrips : Prop :=
  (∀ w : Word, thrWord (thrdec w).2 (thrdec w).1 = w) ∧
  (∀ (m : BitVec 12) (e : BitVec 4), thrdec (thrWord m e) = (e, m))

/-- R60: TADC = TMANT * 2^TEXP, exact in 27 bits; the largest value is 134184960. -/
def Obligations.ThresholdAdcIsExact : Prop :=
  ∀ (m : BitVec 12) (e : BitVec 4),
    (thradc m e).toNat = m.toNat * 2 ^ e.toNat ∧ (thradc m e).toNat ≤ 134184960

/-! ### The operations (45_operations) -/

/-- R63: RD_CH ch, its word 0x0c0000, its two reads, its payload, and how it stops. -/
def Obligations.RdChReadsOneChannel : Prop :=
  ∀ (sel : BitVec 4) (s : State), s.busy = false →
    (sel.toNat ≤ 3 → decode (0x0#4 ++ sel ++ 0x0000#16) = .ok (.rdCh sel)) ∧
    (3 < sel.toNat → exec (.rdCh sel) s = .fault (.contractViolation .illegalSel)) ∧
    (sel.toNat ≤ 3 → EndsAtFirstFailure (.rdCh sel) s ∧
      ∀ w1 w2 : Word, s.answers [w1, w2] →
        exec (.rdCh sel) s = .next (s.afterResponse
          [.read s.cfg.devAddr (BitVec.ofNat 8 (2 * sel.toNat)), .read s.cfg.devAddr (BitVec.ofNat 8 (2 * sel.toNat + 1))]
          ⟨0, some (flagBit sel.toNat w1 w2),
            .reading (pairExp w1) (pairMant w1 w2) (pairCnt w2) (pairCrcField w2) (pairCrc w1 w2)⟩))

/-- R64: RD_ALL. -/
def Obligations.RdAllReadsFourChannels : Prop :=
  decode 0x100000 = .ok .rdAll ∧ ∀ s : State, s.busy = false → EndsAtFirstFailure .rdAll s ∧
    ∀ a0 b0 a1 b1 a2 b2 a3 b3 : Word, s.answers [a0, b0, a1, b1, a2, b2, a3, b3] →
      exec .rdAll s = .next (s.afterResponse
        [.read s.cfg.devAddr 0x00, .read s.cfg.devAddr 0x01, .read s.cfg.devAddr 0x02, .read s.cfg.devAddr 0x03,
         .read s.cfg.devAddr 0x04, .read s.cfg.devAddr 0x05, .read s.cfg.devAddr 0x06, .read s.cfg.devAddr 0x07]
        ⟨0, some (flagBit 3 a3 b3 ||| flagBit 2 a2 b2 ||| flagBit 1 a1 b1 ||| flagBit 0 a0 b0),
          .readings ⟨a0 ++ b0, a1 ++ b1, a2 ++ b2, a3 ++ b3⟩
            ⟨pairCrc a0 b0, pairCrc a1 b1, pairCrc a2 b2, pairCrc a3 b3⟩⟩)

/-- R65: RD_ADC. -/
def Obligations.RdAdcReturnsTheExactQuad : Prop :=
  decode 0x200000 = .ok .rdAdc ∧ ∀ s : State, s.busy = false → EndsAtFirstFailure .rdAdc s ∧
    ∀ a0 b0 a1 b1 a2 b2 a3 b3 : Word, s.answers [a0, b0, a1, b1, a2, b2, a3, b3] →
      exec .rdAdc s = .next (s.afterResponse (allReads s.cfg.devAddr)
        ⟨0, some (flagBit 3 a3 b3 ||| flagBit 2 a2 b2 ||| flagBit 1 a1 b1 ||| flagBit 0 a0 b0),
          .adc ⟨BitVec.ofNat 35 (pairAdc a0 b0), BitVec.ofNat 35 (pairAdc a1 b1), BitVec.ofNat 35 (pairAdc a2 b2),
            BitVec.ofNat 35 (pairAdc a3 b3)⟩⟩)

/-- R66: RD_XYZ, for every calibration. -/
def Obligations.RdXyzReturnsTheLinearTransform : Prop :=
  decode 0x300000 = .ok .rdXyz ∧
  ∀ (s : State) (o : Mat3 NumQ), s.busy = false → s.cfg.m = Mat3.values o → EndsAtFirstFailure .rdXyz s ∧
    ∀ a0 b0 a1 b1 a2 b2 a3 b3 : Word, s.answers [a0, b0, a1, b1, a2, b2, a3, b3] →
      exec .rdXyz s = .next (s.afterResponse (allReads s.cfg.devAddr)
        ⟨0, some (flagBit 3 a3 b3 ||| flagBit 2 a2 b2 ||| flagBit 1 a1 b1 ||| flagBit 0 a0 b0),
          .xyz (pairAdc a0 b0 * o.e00 + pairAdc a1 b1 * o.e10 + pairAdc a2 b2 * o.e20)
            (pairAdc a0 b0 * o.e01 + pairAdc a1 b1 * o.e11 + pairAdc a2 b2 * o.e21)
            (pairAdc a0 b0 * o.e02 + pairAdc a1 b1 * o.e12 + pairAdc a2 b2 * o.e22)
            (pairAdc a1 b1 * (43 / 20000))⟩)

/-- R67: RD_XY, for every calibration: chromaticity, or DomainError with CRCERR and no payload. -/
def Obligations.RdXyReturnsChromaticityOrDomainError : Prop :=
  decode 0x400000 = .ok .rdXy ∧
  ∀ (s : State) (o : Mat3 NumQ), s.busy = false → s.cfg.m = Mat3.values o → EndsAtFirstFailure .rdXy s ∧
    ∀ a0 b0 a1 b1 a2 b2 a3 b3 : Word, s.answers [a0, b0, a1, b1, a2, b2, a3, b3] →
      ∀ x y z : NumQ,
        x = pairAdc a0 b0 * o.e00 + pairAdc a1 b1 * o.e10 + pairAdc a2 b2 * o.e20 →
        y = pairAdc a0 b0 * o.e01 + pairAdc a1 b1 * o.e11 + pairAdc a2 b2 * o.e21 →
        z = pairAdc a0 b0 * o.e02 + pairAdc a1 b1 * o.e12 + pairAdc a2 b2 * o.e22 →
        exec .rdXy s = .next (s.afterResponse (allReads s.cfg.devAddr)
          (if x + y + z = 0 then
            ⟨6, some (flagBit 3 a3 b3 ||| flagBit 2 a2 b2 ||| flagBit 1 a1 b1 ||| flagBit 0 a0 b0), .none⟩
          else
            ⟨0, some (flagBit 3 a3 b3 ||| flagBit 2 a2 b2 ||| flagBit 1 a1 b1 ||| flagBit 0 a0 b0),
              .xy (x / (x + y + z)) (y / (x + y + z))⟩))

/-- R68: RD_LUX reads channel 1 alone. -/
def Obligations.RdLuxReadsChannelOneOnly : Prop :=
  decode 0x500000 = .ok .rdLux ∧ ∀ s : State, s.busy = false → EndsAtFirstFailure .rdLux s ∧
    ∀ w1 w2 : Word, s.answers [w1, w2] →
      exec .rdLux s = .next (s.afterResponse [.read s.cfg.devAddr 0x02, .read s.cfg.devAddr 0x03]
        ⟨0, some (flagBit 1 w1 w2), .lux (pairAdc w1 w2 * (43 / 20000))⟩)

/-- RD_RGB (R69), for every configuration that is well formed in what it reads. What that is (M, MRGB, WX, WY, POW512 and not
WZ, whatever COMPAND_FN is) and that any other is refused are the model's reading of R11 and R85 (logs 6, 7). -/
def Obligations.RdRgbReturnsTheColour : Prop :=
  decode 0x600000 = .ok .rdRgb ∧
  (∀ s : State, s.busy = false → configuredFor s.cfg .rdRgb = false → exec .rdRgb s = .refused .illFormedConfig) ∧
  ∀ (s : State) (o g : Mat3 NumQ) (wx wy : NumQ) (p : Nat), s.busy = false → s.cfg.m = Mat3.values o →
    s.cfg.mrgb = Mat3.values g → s.cfg.wx = some wx → s.cfg.wy = some wy → wx ≠ 0 → wy ≠ 0 → s.cfg.pow512 = some p →
    EndsAtFirstFailure .rdRgb s ∧
    ∀ a0 b0 a1 b1 a2 b2 a3 b3 : Word, s.answers [a0, b0, a1, b1, a2, b2, a3, b3] →
      ∀ x y z : NumQ,
        x = pairAdc a0 b0 * o.e00 + pairAdc a1 b1 * o.e10 + pairAdc a2 b2 * o.e20 →
        y = pairAdc a0 b0 * o.e01 + pairAdc a1 b1 * o.e11 + pairAdc a2 b2 * o.e21 →
        z = pairAdc a0 b0 * o.e02 + pairAdc a1 b1 * o.e12 + pairAdc a2 b2 * o.e22 →
        exec .rdRgb s = .next (s.afterResponse (allReads s.cfg.devAddr)
          ⟨0, some (flagBit 3 a3 b3 ||| flagBit 2 a2 b2 ||| flagBit 1 a1 b1 ||| flagBit 0 a0 b0),
            .rgb (clamp (compandFn s.cfg.compandFn p (g.e00 * (x / wx) + g.e01 * (y / wy) + g.e02 * (z / wy))))
              (clamp (compandFn s.cfg.compandFn p (g.e10 * (x / wx) + g.e11 * (y / wy) + g.e12 * (z / wy))))
              (clamp (compandFn s.cfg.compandFn p (g.e20 * (x / wx) + g.e21 * (y / wy) + g.e22 * (z / wy))))⟩)

/-- R70: RD_THR which: exactly one read, no CRCERR. -/
def Obligations.RdThrReadsOneThreshold : Prop :=
  ∀ (sel : BitVec 4) (s : State), s.busy = false →
    (sel.toNat ≤ 1 → decode (0x7#4 ++ sel ++ 0x0000#16) = .ok (.rdThr sel)) ∧
    (1 < sel.toNat → exec (.rdThr sel) s = .fault (.contractViolation .illegalSel)) ∧
    (sel.toNat ≤ 1 → EndsAtFirstFailure (.rdThr sel) s ∧
      ∀ w : Word, s.answers [w] →
        exec (.rdThr sel) s = .next (s.afterResponse [.read s.cfg.devAddr (BitVec.ofNat 8 (8 + sel.toNat))]
          ⟨0, none, .threshold (w.extractLsb' 12 4) (w.extractLsb' 0 12)
            (BitVec.ofNat 27 (w.toNat % 4096 * 2 ^ (w.toNat / 4096)))⟩))

/-- R71: WR_THR which, mant, exp: exactly one write of {exp, mant}, not read back, no payload and no CRCERR. The Ok of a write
carries no word, so any Ok answer will do. -/
def Obligations.WrThrWritesOneThreshold : Prop :=
  ∀ (sel : BitVec 4) (mant : BitVec 12) (exp : BitVec 4) (s : State), s.busy = false →
    (sel.toNat ≤ 1 → decode (0x8#4 ++ sel ++ (exp ++ mant)) = .ok (.wrThr sel mant exp)) ∧
    (1 < sel.toNat → exec (.wrThr sel mant exp) s = .fault (.contractViolation .illegalSel)) ∧
    (sel.toNat ≤ 1 → EndsAtFirstFailure (.wrThr sel mant exp) s ∧
      (s.okUpTo 1 →
        exec (.wrThr sel mant exp) s = .next (s.afterResponse
          [.write s.cfg.devAddr (BitVec.ofNat 8 (8 + sel.toNat)) (exp ++ mant)] ⟨0, none, .none⟩)))

/-- A sensor whose four mantissas are zero (derived in R67 and R69): RD_XY answers DomainError and RD_RGB, under the default
companding function, black, whatever the calibration. -/
def Obligations.DarkSensorGivesDomainErrorAndBlack : Prop :=
  ∀ (s : State) (a0 b0 a1 b1 a2 b2 a3 b3 : Word), s.busy = false → s.answers [a0, b0, a1, b1, a2, b2, a3, b3] →
    pairMant a0 b0 = 0 → pairMant a1 b1 = 0 → pairMant a2 b2 = 0 → pairMant a3 b3 = 0 →
    (configuredFor s.cfg .rdXy = true →
      ∃ e, exec .rdXy s = .next (s.afterResponse (allReads s.cfg.devAddr) ⟨6, some e, .none⟩)) ∧
    (configuredFor s.cfg .rdRgb = true → s.cfg.compandFn = .srgb →
      ∃ e, exec .rdRgb s = .next (s.afterResponse (allReads s.cfg.devAddr) ⟨0, some e, .rgb 0 0 0⟩))

/-! ### Whole-machine rules -/

/-- What every operation does for EVERY behaviour of the link (R61, R74, R79, R84, R86, R88): all transactions Ok, one legal
response (which one, the statements of the nine operations say) and the whole transaction list; the first one that is not Ok,
the transactions up to it and then the error's STATUS alone, the end without a response at a reset, or a refusal. Each next
state is given whole. What CFG holds after a reset is the model's choice (logs 5, 12), and so are the two refusals (log 22). -/
def Obligations.EveryOperationForEveryLinkBehaviour : Prop :=
  ∀ (i : Instr) (s : State), i.WellFormed → s.busy = false → configuredFor s.cfg i = true →
    (s.okUpTo (transactionsOf s.cfg.devAddr i).length →
      ∃ r : Response, r.legal = true ∧ exec i s = .next (s.afterResponse (transactionsOf s.cfg.devAddr i) r)) ∧
    (∀ n, n < (transactionsOf s.cfg.devAddr i).length → s.okUpTo n →
      match s.linkEvent n with
      | .answer (.ok _ _) => True
      | .answer (.err k) =>
        exec i s = .next (s.afterResponse ((transactionsOf s.cfg.devAddr i).take (n + 1)) (errorResponse k))
      | .host .reset =>
        exec i s = .next { s with
          cfg := Cfg.reset, busy := false, op := none, seq := none, work := .empty, link := s.link.drop (n + 1),
          issued := s.issued ++ (transactionsOf s.cfg.devAddr i).take (n + 1) }
      | .host (.request _) => exec i s = .refused .requestWhileBusy
      | .host (.configure _) => exec i s = .refused .configureWhileBusy)

/-- The response of an operation (R10) and its transactions (derived in R72) are a function of the request, the configuration
and the link's answers to its transactions, and of nothing else: not of what happened before, nor of what any register held. -/
def Obligations.ResponseDependsOnRequestConfigurationAndAnswersOnly : Prop :=
  ∀ (i : Instr) (s t s' : State), s.busy = false → t.busy = false → s.cfg = t.cfg →
    (∀ n < (transactionsOf s.cfg.devAddr i).length, s.linkEvent n = t.linkEvent n) → exec i s = .next s' →
    ∃ (txns : List Transaction) (rs : List Response) (t' : State), exec i t = .next t' ∧
      s'.issued = s.issued ++ txns ∧ t'.issued = t.issued ++ txns ∧
      s'.delivered = s.delivered ++ rs ∧ t'.delivered = t.delivered ++ rs

/-- R75: a CRC mismatch sets CRCERR bits and changes nothing else. Two runs of an operation that computes from channels,
whose words differ in CRC fields only, issue the same transactions and deliver the same STATUS and payload. -/
def Obligations.CrcMismatchChangesCrcerrOnly : Prop :=
  ∀ (i : Instr) (s t : State) (ws ws' : List Word), i ∈ [.rdAdc, .rdXyz, .rdXy, .rdLux, .rdRgb] →
    s.busy = false → t.busy = false → s.cfg = t.cfg → configuredFor s.cfg i = true →
    ws.length = (transactionsOf s.cfg.devAddr i).length → ws'.length = ws.length →
    (∀ k, k % 2 = 0 → ws'[k]? = ws[k]?) →
    (∀ k, k % 2 = 1 → ws'[k]?.map (fun w => w.extractLsb' 4 12) = ws[k]?.map (fun w => w.extractLsb' 4 12)) →
    s.answers ws → t.answers ws' →
    ∃ (status e e' : BitVec 4) (p : Payload),
      exec i s = .next (s.afterResponse (transactionsOf s.cfg.devAddr i) ⟨status, some e, p⟩) ∧
      exec i t = .next (t.afterResponse (transactionsOf s.cfg.devAddr i) ⟨status, some e', p⟩) ∧
      (status = 0 ∨ i = .rdXy)

/-- R17: no step of any state reads a working register that nothing has written; reading one would be a fault. -/
def Obligations.NoUnwrittenRegisterIsEverRead : Prop :=
  (∀ (s : State) (reg : WReg), step s ≠ .fault (.unwrittenRegister reg)) ∧
  (∀ (i : Instr) (s : State) (reg : WReg), exec i s ≠ .fault (.unwrittenRegister reg)) ∧
  (∀ reg : WReg, (need reg (none : Option Word)) = .error (.fault (.unwrittenRegister reg)))

/-- Headline. Every step keeps the invariant: the block is idle between steps and holds nothing of an operation, it has only
ever issued reads of 0x00..0x09 and writes of 0x08 and 0x09, and every response it has delivered is as R38 allows. -/
def Obligations.EveryStepKeepsTheInvariant : Prop :=
  ∀ s t : State, s.Inv → step s = .next t → t.Inv

/-- The invariant holds after reset, and nothing has been issued or delivered. -/
def Obligations.ResetMeetsTheInvariant : Prop :=
  State.reset.Inv ∧ State.reset.issued = [] ∧ State.reset.delivered = []
end

