-- ==== Sys2Proof/Laws/State.lean ====
section
/-! SUPPORT. The small lemmas of the containers and of the state: one lemma per field and update, true by rfl. -/

namespace Sys2Proof

@[simp] theorem Quad.get_fill {α : Type} (v : α) (ch : Fin 4) : (Quad.fill v).get ch = v := by
  fin_cases ch <;> rfl

@[simp] theorem Quad.get_set_same {α : Type} (q : Quad α) (ch : Fin 4) (v : α) : (q.set ch v).get ch = v := by
  fin_cases ch <;> rfl

theorem Quad.get_set_other {α : Type} (q : Quad α) {ch ch' : Fin 4} (v : α) (h : ch' ≠ ch) :
    (q.set ch v).get ch' = q.get ch' := by
  fin_cases ch <;> fin_cases ch' <;> first | rfl | exact absurd rfl h

namespace Machine

/-! ### Changing working registers -/

@[simp] theorem upd_cfg (s : State) (f : Work → Work) : (s.upd f).cfg = s.cfg := rfl
@[simp] theorem upd_busy (s : State) (f : Work → Work) : (s.upd f).busy = s.busy := rfl
@[simp] theorem upd_op (s : State) (f : Work → Work) : (s.upd f).op = s.op := rfl
@[simp] theorem upd_seq (s : State) (f : Work → Work) : (s.upd f).seq = s.seq := rfl
@[simp] theorem upd_work (s : State) (f : Work → Work) : (s.upd f).work = f s.work := rfl
@[simp] theorem upd_host (s : State) (f : Work → Work) : (s.upd f).host = s.host := rfl
@[simp] theorem upd_link (s : State) (f : Work → Work) : (s.upd f).link = s.link := rfl
@[simp] theorem upd_linkRest (s : State) (f : Work → Work) : (s.upd f).linkRest = s.linkRest := rfl
@[simp] theorem upd_issued (s : State) (f : Work → Work) : (s.upd f).issued = s.issued := rfl
@[simp] theorem upd_delivered (s : State) (f : Work → Work) : (s.upd f).delivered = s.delivered := rfl

/-! ### Accepting a request -/

@[simp] theorem accept_cfg (s : State) (w : Req24) : (s.accept w).cfg = s.cfg := rfl
@[simp] theorem accept_busy (s : State) (w : Req24) : (s.accept w).busy = true := rfl
@[simp] theorem accept_op (s : State) (w : Req24) : (s.accept w).op = some w := rfl
@[simp] theorem accept_seq (s : State) (w : Req24) : (s.accept w).seq = some 0 := rfl
@[simp] theorem accept_work (s : State) (w : Req24) : (s.accept w).work = .empty := rfl
@[simp] theorem accept_host (s : State) (w : Req24) : (s.accept w).host = s.host := rfl
@[simp] theorem accept_link (s : State) (w : Req24) : (s.accept w).link = s.link := rfl
@[simp] theorem accept_linkRest (s : State) (w : Req24) : (s.accept w).linkRest = s.linkRest := rfl
@[simp] theorem accept_issued (s : State) (w : Req24) : (s.accept w).issued = s.issued := rfl
@[simp] theorem accept_delivered (s : State) (w : Req24) : (s.accept w).delivered = s.delivered := rfl

/-! ### Setting STATUS -/

@[simp] theorem setStatus_cfg (s : State) (k : Status) : (s.setStatus k).cfg = s.cfg := rfl
@[simp] theorem setStatus_busy (s : State) (k : Status) : (s.setStatus k).busy = s.busy := rfl
@[simp] theorem setStatus_op (s : State) (k : Status) : (s.setStatus k).op = s.op := rfl
@[simp] theorem setStatus_seq (s : State) (k : Status) : (s.setStatus k).seq = s.seq := rfl
@[simp] theorem setStatus_work (s : State) (k : Status) : (s.setStatus k).work = { s.work with status := some k.code } := rfl
@[simp] theorem setStatus_host (s : State) (k : Status) : (s.setStatus k).host = s.host := rfl
@[simp] theorem setStatus_link (s : State) (k : Status) : (s.setStatus k).link = s.link := rfl
@[simp] theorem setStatus_linkRest (s : State) (k : Status) : (s.setStatus k).linkRest = s.linkRest := rfl
@[simp] theorem setStatus_issued (s : State) (k : Status) : (s.setStatus k).issued = s.issued := rfl
@[simp] theorem setStatus_delivered (s : State) (k : Status) : (s.setStatus k).delivered = s.delivered := rfl

/-! ### Leaving an operation -/

@[simp] theorem idle_cfg (s : State) : (s.idle).cfg = s.cfg := rfl
@[simp] theorem idle_busy (s : State) : (s.idle).busy = false := rfl
@[simp] theorem idle_op (s : State) : (s.idle).op = none := rfl
@[simp] theorem idle_seq (s : State) : (s.idle).seq = none := rfl
@[simp] theorem idle_work (s : State) : (s.idle).work = .empty := rfl
@[simp] theorem idle_host (s : State) : (s.idle).host = s.host := rfl
@[simp] theorem idle_link (s : State) : (s.idle).link = s.link := rfl
@[simp] theorem idle_linkRest (s : State) : (s.idle).linkRest = s.linkRest := rfl
@[simp] theorem idle_issued (s : State) : (s.idle).issued = s.issued := rfl
@[simp] theorem idle_delivered (s : State) : (s.idle).delivered = s.delivered := rfl

/-! ### A reset -/

@[simp] theorem resetNow_cfg (s : State) : (s.resetNow).cfg = .reset := rfl
@[simp] theorem resetNow_busy (s : State) : (s.resetNow).busy = false := rfl
@[simp] theorem resetNow_op (s : State) : (s.resetNow).op = none := rfl
@[simp] theorem resetNow_seq (s : State) : (s.resetNow).seq = none := rfl
@[simp] theorem resetNow_work (s : State) : (s.resetNow).work = .empty := rfl
@[simp] theorem resetNow_host (s : State) : (s.resetNow).host = s.host := rfl
@[simp] theorem resetNow_link (s : State) : (s.resetNow).link = s.link := rfl
@[simp] theorem resetNow_linkRest (s : State) : (s.resetNow).linkRest = s.linkRest := rfl
@[simp] theorem resetNow_issued (s : State) : (s.resetNow).issued = s.issued := rfl
@[simp] theorem resetNow_delivered (s : State) : (s.resetNow).delivered = s.delivered := rfl

/-! ### Issuing a transaction -/

@[simp] theorem issue_cfg (s : State) (t : Transaction) : (s.issue t).cfg = s.cfg := rfl
@[simp] theorem issue_busy (s : State) (t : Transaction) : (s.issue t).busy = s.busy := rfl
@[simp] theorem issue_op (s : State) (t : Transaction) : (s.issue t).op = s.op := rfl
@[simp] theorem issue_seq (s : State) (t : Transaction) : (s.issue t).seq = s.seq := rfl
@[simp] theorem issue_work (s : State) (t : Transaction) : (s.issue t).work = s.work := rfl
@[simp] theorem issue_host (s : State) (t : Transaction) : (s.issue t).host = s.host := rfl
@[simp] theorem issue_link (s : State) (t : Transaction) : (s.issue t).link = s.link.drop 1 := rfl
@[simp] theorem issue_linkRest (s : State) (t : Transaction) : (s.issue t).linkRest = s.linkRest := rfl
@[simp] theorem issue_issued (s : State) (t : Transaction) : (s.issue t).issued = s.issued ++ [t] := rfl
@[simp] theorem issue_delivered (s : State) (t : Transaction) : (s.issue t).delivered = s.delivered := rfl

/-! ### Counting an Ok -/

@[simp] theorem countOk_cfg (s : State) : (s.countOk).cfg = s.cfg := rfl
@[simp] theorem countOk_busy (s : State) : (s.countOk).busy = s.busy := rfl
@[simp] theorem countOk_op (s : State) : (s.countOk).op = s.op := rfl
@[simp] theorem countOk_seq (s : State) : (s.countOk).seq = s.seq.map (· + 1) := rfl
@[simp] theorem countOk_work (s : State) : (s.countOk).work = s.work := rfl
@[simp] theorem countOk_host (s : State) : (s.countOk).host = s.host := rfl
@[simp] theorem countOk_link (s : State) : (s.countOk).link = s.link := rfl
@[simp] theorem countOk_linkRest (s : State) : (s.countOk).linkRest = s.linkRest := rfl
@[simp] theorem countOk_issued (s : State) : (s.countOk).issued = s.issued := rfl
@[simp] theorem countOk_delivered (s : State) : (s.countOk).delivered = s.delivered := rfl

/-! ### The events of the link -/

theorem linkEvent_eq (s : State) (n : Nat) : s.linkEvent n = s.link.getD n (.answer s.linkRest) := rfl

theorem linkEvent_congr {s t : State} (hl : t.link = s.link) (hr : t.linkRest = s.linkRest) (n : Nat) :
    t.linkEvent n = s.linkEvent n := by
  simp [linkEvent_eq, hl, hr]

@[simp] theorem linkEvent_issue (s : State) (t : Transaction) (n : Nat) : (s.issue t).linkEvent n = s.linkEvent (n + 1) := by
  simp [linkEvent_eq, List.getD_eq_getElem?_getD]

@[simp] theorem linkEvent_upd (s : State) (f : Work → Work) (n : Nat) : (s.upd f).linkEvent n = s.linkEvent n := rfl

@[simp] theorem linkEvent_accept (s : State) (w : Req24) (n : Nat) : (s.accept w).linkEvent n = s.linkEvent n := rfl

@[simp] theorem linkEvent_countOk (s : State) (n : Nat) : s.countOk.linkEvent n = s.linkEvent n := rfl

end Machine

end Sys2Proof
end

