-- ==== Sys2Proof/Laws/Ops.lean ====
section
/-! SUPPORT. What the shared operations can do: one lemma for each, which later proofs cite instead of unfolding them. -/

namespace Sys2Proof.Machine

/-! ### Runs -/

@[simp] theorem run_ok_bind {α β : Type} (a : α) (f : α → Run β) : ((Except.ok a : Run α) >>= f) = f a := rfl

@[simp] theorem run_error_bind {α β : Type} (e : Stop) (f : α → Run β) :
    ((Except.error e : Run α) >>= f) = Except.error e := rfl

/-- A run that goes on went on at every step. -/
theorem run_bind_ok {α β : Type} {x : Run α} {f : α → Run β} {b : β} :
    (x >>= f) = Except.ok b ↔ ∃ a, x = .ok a ∧ f a = .ok b := by
  cases x with
  | ok a => simp
  | error e => simp

/-- A run that stops stopped at its first step or later. -/
theorem run_bind_error {α β : Type} {x : Run α} {f : α → Run β} {e : Stop} :
    (x >>= f) = Except.error e ↔ x = .error e ∨ ∃ a, x = .ok a ∧ f a = .error e := by
  cases x with
  | ok a => simp
  | error e' => simp

@[simp] theorem need_some {α : Type} (reg : WReg) (a : α) : need reg (some a) = .ok a := rfl

@[simp] theorem need_none {α : Type} (reg : WReg) :
    need reg (none : Option α) = .error (.fault (.unwrittenRegister reg)) := rfl

@[simp] theorem outcome_ok (s : State) : outcome (.ok s) = .next s := rfl

@[simp] theorem outcome_ended (s : State) : outcome (.error (.ended s)) = .next s := rfl

@[simp] theorem outcome_fault (f : Fault) : outcome (.error (.fault f)) = .fault f := rfl

@[simp] theorem outcome_refused (why : Refusal) : outcome (.error (.refused why)) = .refused why := rfl

/-! ### The end of an operation -/

/-- `respond` always delivers: STATUS 0, the field, the payload; the block is idle. -/
theorem respond_eq (crcerr : Option (BitVec 4)) (p : Payload) (s : State) :
    respond crcerr p s = .ok { s.idle with delivered := s.delivered ++ [⟨0, crcerr, p⟩] } := rfl

/-- `raise` always ends the operation: the code, the field, no payload; the block is idle. -/
theorem raise_eq {α : Type} (k : Status) (crcerr : Option (BitVec 4)) (s : State) :
    (raise k crcerr s : Run α) =
      .error (.ended { s.idle with delivered := s.delivered ++ [⟨k.code, crcerr, .none⟩] }) := rfl

/-! ### The link -/

/-- How an operation stops at an event that is no Ok answer, in the state in which the transaction has been issued. -/
def stopAt (e : LinkEvent) (s : State) : Stop :=
  match e with
  | .answer (.ok _ _) => .ended s
  | .answer (.err k) => .ended { s.idle with delivered := s.delivered ++ [errorResponse k] }
  | .host .reset => .ended s.resetNow
  | .host (.request _) => .refused .requestWhileBusy
  | .host (.configure _) => .refused .configureWhileBusy

/-- A transaction answered Ok goes on with the word; SEQ counts it. -/
theorem transact_ok {s : State} {w : Word} (t : Transaction) (h : linkWord (s.linkEvent 0) = some w) :
    transact t s = .ok (w, (s.issue t).countOk) := by
  unfold transact
  cases he : s.linkEvent 0 with
  | answer a =>
    cases a with
    | ok b0 b1 =>
      simp only [he, linkWord, Option.some.injEq] at h
      simp [h]
    | err k => simp [he, linkWord] at h
  | host e => simp [he, linkWord] at h

/-- A transaction not answered Ok stops the operation. -/
theorem transact_stop {s : State} (t : Transaction) (h : linkWord (s.linkEvent 0) = none) :
    transact t s = .error (stopAt (s.linkEvent 0) (s.issue t)) := by
  unfold transact
  cases he : s.linkEvent 0 with
  | answer a =>
    cases a with
    | ok b0 b1 => simp [he, linkWord] at h
    | err k => rfl
  | host e => cases e <;> rfl

/-- All that a transaction can do. -/
theorem transact_cases (t : Transaction) (s : State) :
    (∃ w, linkWord (s.linkEvent 0) = some w ∧ transact t s = .ok (w, (s.issue t).countOk)) ∨
      (linkWord (s.linkEvent 0) = none ∧ transact t s = .error (stopAt (s.linkEvent 0) (s.issue t))) := by
  cases h : linkWord (s.linkEvent 0) with
  | some w => exact .inl ⟨w, rfl, transact_ok t h⟩
  | none => exact .inr ⟨rfl, transact_stop t h⟩

/-! ### Launching an operation and taking a host event -/

theorem launch_busy {γ : Type} {s : State} (i : Instr) (conf : Option γ) (body : γ → State → Run State)
    (h : s.busy = true) : launch i conf body s = .refused .requestWhileBusy := by
  simp [launch, h]

theorem launch_violation {γ : Type} {s : State} {i : Instr} {v : Violation} (conf : Option γ)
    (body : γ → State → Run State) (h : s.busy = false) (hv : i.violation = some v) :
    launch i conf body s = .fault (.contractViolation v) := by
  simp [launch, h, hv]

theorem launch_unconfigured {γ : Type} {s : State} {i : Instr} {conf : Option γ} (body : γ → State → Run State)
    (h : s.busy = false) (hi : i.WellFormed) (hc : conf = none) :
    launch i conf body s = .refused .illFormedConfig := by
  simp only [Instr.WellFormed] at hi
  simp [launch, h, hi, hc]

theorem launch_runs {γ : Type} {s : State} {i : Instr} {conf : Option γ} {c : γ} (body : γ → State → Run State)
    (h : s.busy = false) (hi : i.WellFormed) (hc : conf = some c) :
    launch i conf body s = outcome (body c (s.accept (encode i))) := by
  simp only [Instr.WellFormed] at hi
  simp [launch, h, hi, hc]

/-- All that `launch` can do. -/
theorem launch_cases {γ : Type} (i : Instr) (conf : Option γ) (body : γ → State → Run State) (s : State) :
    (s.busy = true ∧ launch i conf body s = .refused .requestWhileBusy) ∨
      (s.busy = false ∧ ∃ v, i.violation = some v ∧ launch i conf body s = .fault (.contractViolation v)) ∨
      (s.busy = false ∧ i.WellFormed ∧ conf = none ∧ launch i conf body s = .refused .illFormedConfig) ∨
      (s.busy = false ∧ i.WellFormed ∧ ∃ c, conf = some c ∧
        launch i conf body s = outcome (body c (s.accept (encode i)))) := by
  cases hb : s.busy with
  | true => exact .inl ⟨rfl, launch_busy i conf body hb⟩
  | false =>
    cases hv : i.violation with
    | some v => exact .inr (.inl ⟨rfl, v, rfl, launch_violation conf body hb hv⟩)
    | none =>
      cases hc : conf with
      | none => exact .inr (.inr (.inl ⟨rfl, hv, rfl, launch_unconfigured body hb hv rfl⟩))
      | some c => exact .inr (.inr (.inr ⟨rfl, hv, c, rfl, launch_runs body hb hv rfl⟩))

/-- All that taking a host event can do. -/
theorem fetch_cases (s : State) :
    (s.host = [] ∧ fetch s = .done (.next s)) ∨
      (∃ w rest, s.host = .request w :: rest ∧
        ((s.busy = true ∧ fetch s = .done (.refused .requestWhileBusy)) ∨
          (s.busy = false ∧ ∃ v, decode w = .error v ∧ fetch s = .done (.fault (.contractViolation v))) ∨
          (s.busy = false ∧ ∃ i, decode w = .ok i ∧ fetch s = .run i { s with host := rest }))) ∨
      (∃ c rest, s.host = .configure c :: rest ∧
        ((s.busy = true ∧ fetch s = .done (.refused .configureWhileBusy)) ∨
          (s.busy = false ∧ fetch s = .done (.next { s with cfg := c, host := rest })))) ∨
      (∃ rest, s.host = .reset :: rest ∧ fetch s = .done (.next { s with host := rest }.resetNow)) := by
  unfold fetch
  cases hh : s.host with
  | nil => simp
  | cons e rest =>
    cases e with
    | request w => cases hb : s.busy <;> cases hd : decode w <;> simp [hd]
    | configure c => cases hb : s.busy <;> simp
    | reset => simp

end Sys2Proof.Machine
end

