-- ==== Sys2Proof/Laws/Channel.lean ====
section
/-! SUPPORT. What the load sequence READ_PAIR and the units over readings can do (45_operations R62; 40_reassembly_crc;
41_adc_normalizer). -/

namespace Sys2Proof.Machine

/-- REASM is the concatenation {W1, W2} (30_encoding R32). -/
theorem reassemble_eq_append (w1 w2 : Word) : reassemble w1 w2 = w1 ++ w2 := by
  simp only [reassemble, res1Exp, res1MantHigh, res2MantLow, res2Cnt, res2Crc]
  apply BitVec.eq_of_getLsbD_eq
  intro i hi
  simp only [BitVec.getLsbD_append, BitVec.getLsbD_extractLsb', BitVec.getLsbD_or, BitVec.getLsbD_shiftLeft,
    BitVec.getLsbD_setWidth]
  interval_cases i <;> simp

/-- The working registers after a successful pair. -/
def Work.afterPair (w : Work) (ch : Fin 4) (a b : Word) : Work :=
  { w with
    w1 := some a, w2 := some b, rd := w.rd.set ch (some (reassemble a b)),
    crcc := w.crcc.set ch (some (crcOf (rdExp (reassemble a b)) (rdMant (reassemble a b)) (rdCnt (reassemble a b)))),
    crcerr := w.crcerr.set ch
      (some (crcOf (rdExp (reassemble a b)) (rdMant (reassemble a b)) (rdCnt (reassemble a b)) !=
        rdCrc (reassemble a b))) }

/-- The state after the first read of a pair has answered `a`. -/
def State.afterFirst (s : State) (ch : Fin 4) (a : Word) : State :=
  (s.issue (.read s.cfg.devAddr (cmdResult1 ch))).countOk.upd fun w => { w with w1 := some a }

/-- The state after a successful pair. -/
def State.afterPair (s : State) (ch : Fin 4) (a b : Word) : State :=
  ((s.afterFirst ch a).issue (.read s.cfg.devAddr (cmdResult2 ch))).countOk.upd fun w => w.afterPair ch a b

/-- A pair whose two reads answer Ok goes on; the CRC never aborts it. -/
theorem readPair_ok {s : State} {a b : Word} (ch : Fin 4) (h0 : linkWord (s.linkEvent 0) = some a)
    (h1 : linkWord (s.linkEvent 1) = some b) : readPair ch s = .ok (s.afterPair ch a b) := by
  have h1' : linkWord ((s.afterFirst ch a).linkEvent 0) = some b := by
    simpa [State.afterFirst] using h1
  simp only [readPair, memRead, transact_ok _ h0, run_ok_bind]
  rw [show ((s.issue (.read s.cfg.devAddr (cmdResult1 ch))).countOk.upd fun w => { w with w1 := some a }) =
    s.afterFirst ch a from rfl, transact_ok _ h1']
  simp [reasm, crc4, crcchk, State.afterPair, State.afterFirst, Work.afterPair, State.upd]

/-- A pair whose first read is not answered Ok stops there: the second read is not issued. -/
theorem readPair_stop_first {s : State} (ch : Fin 4) (h0 : linkWord (s.linkEvent 0) = none) :
    readPair ch s = .error (stopAt (s.linkEvent 0) (s.issue (.read s.cfg.devAddr (cmdResult1 ch)))) := by
  simp [readPair, memRead, transact_stop _ h0]

/-- A pair whose second read is not answered Ok stops there. -/
theorem readPair_stop_second {s : State} {a : Word} (ch : Fin 4) (h0 : linkWord (s.linkEvent 0) = some a)
    (h1 : linkWord (s.linkEvent 1) = none) :
    readPair ch s = .error (stopAt (s.linkEvent 1)
      ((s.afterFirst ch a).issue (.read s.cfg.devAddr (cmdResult2 ch)))) := by
  have h1' : linkWord ((s.afterFirst ch a).linkEvent 0) = none := by
    simpa [State.afterFirst] using h1
  have he : (s.afterFirst ch a).linkEvent 0 = s.linkEvent 1 := by simp [State.afterFirst]
  simp only [readPair, memRead, transact_ok _ h0, run_ok_bind]
  rw [show ((s.issue (.read s.cfg.devAddr (cmdResult1 ch))).countOk.upd fun w => { w with w1 := some a }) =
    s.afterFirst ch a from rfl, transact_stop _ h1', he]
  simp [State.afterFirst]

/-- All that READ_PAIR can do. -/
theorem readPair_cases (ch : Fin 4) (s : State) :
    (∃ a b, linkWord (s.linkEvent 0) = some a ∧ linkWord (s.linkEvent 1) = some b ∧
        readPair ch s = .ok (s.afterPair ch a b)) ∨
      (linkWord (s.linkEvent 0) = none ∧
        readPair ch s = .error (stopAt (s.linkEvent 0) (s.issue (.read s.cfg.devAddr (cmdResult1 ch))))) ∨
      (∃ a, linkWord (s.linkEvent 0) = some a ∧ linkWord (s.linkEvent 1) = none ∧
        readPair ch s = .error (stopAt (s.linkEvent 1)
          ((s.afterFirst ch a).issue (.read s.cfg.devAddr (cmdResult2 ch))))) := by
  cases h0 : linkWord (s.linkEvent 0) with
  | none => exact .inr (.inl ⟨rfl, readPair_stop_first ch h0⟩)
  | some a =>
    cases h1 : linkWord (s.linkEvent 1) with
    | none => exact .inr (.inr ⟨a, rfl, rfl, readPair_stop_second ch h0 h1⟩)
    | some b => exact .inl ⟨a, b, rfl, rfl, readPair_ok ch h0 h1⟩

end Sys2Proof.Machine
end

