-- ==== Sys2Proof/Laws/Encoding.lean ====
section
/-! SUPPORT. The fields of a request word and of a threshold word: taking a field out of a word put together from fields
gives it back, and a word is put together from its own fields (30_encoding R33, R35). -/

namespace Sys2Proof

theorem reqOpsel_reqWord (o s : BitVec 4) (d : Word) : reqOpsel (reqWord o s d) = o := by
  apply BitVec.eq_of_getLsbD_eq
  intro i hi
  simp only [reqOpsel, reqWord, BitVec.getLsbD_extractLsb', BitVec.getLsbD_append]
  interval_cases i <;> simp

theorem reqSel_reqWord (o s : BitVec 4) (d : Word) : reqSel (reqWord o s d) = s := by
  apply BitVec.eq_of_getLsbD_eq
  intro i hi
  simp only [reqSel, reqWord, BitVec.getLsbD_extractLsb', BitVec.getLsbD_append]
  interval_cases i <;> simp

theorem reqData_reqWord (o s : BitVec 4) (d : Word) : reqData (reqWord o s d) = d := by
  apply BitVec.eq_of_getLsbD_eq
  intro i hi
  simp only [reqData, reqWord, BitVec.getLsbD_extractLsb', BitVec.getLsbD_append]
  interval_cases i <;> simp

theorem reqWord_fields (w : Req24) : reqWord (reqOpsel w) (reqSel w) (reqData w) = w := by
  apply BitVec.eq_of_getLsbD_eq
  intro i hi
  simp only [reqOpsel, reqSel, reqData, reqWord, BitVec.getLsbD_extractLsb', BitVec.getLsbD_append]
  interval_cases i <;> simp

theorem thrExpField_append (e : BitVec 4) (m : BitVec 12) : thrExpField (e ++ m) = e := by
  apply BitVec.eq_of_getLsbD_eq
  intro i hi
  simp only [thrExpField, BitVec.getLsbD_extractLsb', BitVec.getLsbD_append]
  interval_cases i <;> simp

theorem thrMantField_append (e : BitVec 4) (m : BitVec 12) : thrMantField (e ++ m) = m := by
  apply BitVec.eq_of_getLsbD_eq
  intro i hi
  simp only [thrMantField, BitVec.getLsbD_extractLsb', BitVec.getLsbD_append]
  interval_cases i <;> simp

theorem thrFields_append (w : Word) : thrExpField w ++ thrMantField w = w := by
  apply BitVec.eq_of_getLsbD_eq
  intro i hi
  simp only [thrExpField, thrMantField, BitVec.getLsbD_extractLsb', BitVec.getLsbD_append]
  interval_cases i <;> simp

/-- The three fields as numbers. -/
theorem reqOpsel_toNat (w : Req24) : (reqOpsel w).toNat = w.toNat / 2 ^ 20 := by
  have := w.isLt
  simp only [reqOpsel, BitVec.extractLsb'_toNat, Nat.shiftRight_eq_div_pow]
  omega

theorem reqSel_toNat (w : Req24) : (reqSel w).toNat = w.toNat / 2 ^ 16 % 16 := by
  simp [reqSel, BitVec.extractLsb'_toNat, Nat.shiftRight_eq_div_pow]

theorem reqData_toNat (w : Req24) : (reqData w).toNat = w.toNat % 2 ^ 16 := by
  simp [reqData, BitVec.extractLsb'_toNat]

/-- When the last check of the decoder accepts, and what. -/
theorem checked_eq_ok {i j : Instr} {b : Bool} : checked i b = .ok j ↔ i = j ∧ i.WellFormed ∧ b = true := by
  unfold checked
  cases hv : i.violation <;> cases b <;> simp [Instr.WellFormed, hv]

/-- The same for an operation without operands. -/
theorem plainOp_eq_ok {i j : Instr} {w : Req24} :
    plainOp i w = .ok j ↔ i = j ∧ i.WellFormed ∧ reqSel w = 0 ∧ reqData w = 0 := by
  unfold plainOp
  split
  · rw [checked_eq_ok]
    simp_all
  · simp_all

end Sys2Proof
end

