-- ==== Sys2Proof/Laws/Run.lean ====
section
/-! SUPPORT. How a sequence of steps meets the link. `Runs f ts s` says all that the steps `f` do with the link from state
`s`: they issue the transactions `ts` in order, and stop at the first that is not answered Ok. One lemma composes two such
sequences; the load sequences READ_PAIR and its fourfold repetition are instances (45_operations R61, R62, R64). -/

namespace Sys2Proof.Machine

/-- `s` as the other agents see it after the block has issued `ts`: what the operation holds is left out. -/
def State.ran (s : State) (ts : List Transaction) : State :=
  { s.idle with issued := s.issued ++ ts, link := s.link.drop ts.length }

theorem ran_ran (s : State) (ts ts' : List Transaction) : (s.ran ts).ran ts' = s.ran (ts ++ ts') := by
  simp [State.ran, State.idle]

@[simp] theorem idle_ran (s : State) (ts : List Transaction) : (s.ran ts).idle = s.ran ts := rfl

theorem issue_idle (s : State) (t : Transaction) : (s.issue t).idle = s.idle.ran [t] := by
  simp [State.ran, State.idle, State.issue]

theorem ran_idle (s : State) (ts : List Transaction) : s.idle.ran ts = s.ran ts := rfl

@[simp] theorem ran_cfg (s : State) (ts : List Transaction) : (s.ran ts).cfg = s.cfg := rfl

theorem linkEvent_ran (s : State) (ts : List Transaction) (n : Nat) :
    (s.ran ts).linkEvent n = s.linkEvent (ts.length + n) := by
  simp [State.ran, State.idle, linkEvent_eq, List.getD_eq_getElem?_getD]

/-- Two states that the other agents cannot tell apart have the same link events ahead. -/
theorem linkEvent_of_idle_eq {s t : State} (h : t.idle = s.idle) (n : Nat) : t.linkEvent n = s.linkEvent n :=
  linkEvent_congr (congrArg State.link h) (congrArg State.linkRest h) n

/-- How an operation stops does not depend on what it held. -/
theorem stopAt_of_idle_eq {s t : State} {e : LinkEvent} (he : linkWord e = none) (h : t.idle = s.idle) :
    stopAt e t = stopAt e s := by
  have hd : t.delivered = s.delivered := show t.idle.delivered = s.idle.delivered from congrArg State.delivered h
  cases e with
  | answer a =>
    cases a with
    | ok b0 b1 => simp [linkWord] at he
    | err k => simp [stopAt, h, hd]
  | host e => cases e <;> simp [stopAt, State.resetNow, h]

/-- The steps `f` from `s`: they issue `ts`, or stop at the first transaction that is not answered Ok. -/
def Runs (f : State → Run State) (ts : List Transaction) (s : State) : Prop :=
  (s.okUpTo ts.length → ∃ t, f s = .ok t ∧ t.idle = s.ran ts) ∧
  (∀ n, n < ts.length → s.okUpTo n → linkWord (s.linkEvent n) = none →
    f s = .error (stopAt (s.linkEvent n) (s.ran (ts.take (n + 1)))))

theorem okUpTo_mono {s : State} {m n : Nat} (h : m ≤ n) (hn : s.okUpTo n) : s.okUpTo m :=
  fun k hk => hn k (hk.trans_le h)

/-- What is known of the events ahead, after some of them have been met. -/
theorem okUpTo_of_ran {s t : State} {ts : List Transaction} {n : Nat} (ht : t.idle = s.ran ts)
    (h : s.okUpTo (ts.length + n)) : t.okUpTo n := by
  intro m hm
  rw [linkEvent_of_idle_eq (s := s.ran ts) ht m, linkEvent_ran]
  exact h _ (by omega)

/-- Running one sequence of steps and then another. -/
theorem Runs.bind {f g : State → Run State} {ts ts' : List Transaction} {s : State} (hf : Runs f ts s)
    (hg : ∀ t, f s = .ok t → t.idle = s.ran ts → Runs g ts' t) : Runs (fun s => f s >>= g) (ts ++ ts') s := by
  refine ⟨fun hok => ?_, fun n hn hok hstop => ?_⟩
  · rw [List.length_append] at hok
    obtain ⟨t, hft, hti⟩ := hf.1 (okUpTo_mono (Nat.le_add_right _ _) hok)
    obtain ⟨u, hgu, hui⟩ := (hg t hft hti).1 (okUpTo_of_ran hti hok)
    refine ⟨u, by simp [hft, hgu], ?_⟩
    rw [hui, ← ran_idle, hti, ran_ran]
  · by_cases hlt : n < ts.length
    · rw [List.take_append_of_le_length (by omega)]
      simp [hf.2 n hlt hok hstop]
    · obtain ⟨k, rfl⟩ : ∃ k, n = ts.length + k := ⟨n - ts.length, by omega⟩
      obtain ⟨t, hft, hti⟩ := hf.1 (okUpTo_mono (Nat.le_add_right _ _) hok)
      have hev : t.linkEvent k = s.linkEvent (ts.length + k) := by
        rw [linkEvent_of_idle_eq (s := s.ran ts) hti k, linkEvent_ran]
      rw [List.length_append] at hn
      have hgk := (hg t hft hti).2 k (by omega) (okUpTo_of_ran hti hok) (by rw [hev, hstop])
      simp only [hft, run_ok_bind, hgk, hev]
      rw [← ran_idle t, hti, ran_ran, Nat.add_assoc, List.take_length_add_append]

/-- Steps that meet no transaction and always go on. -/
theorem Runs.pure {f : State → Run State} {s t : State} (h : f s = .ok t) (ht : t.idle = s.idle) : Runs f [] s := by
  refine ⟨fun _ => ⟨t, h, ?_⟩, fun n hn => absurd hn (by simp)⟩
  rw [ht]
  simp [State.ran, State.idle]

theorem afterFirst_idle (s : State) (ch : Fin 4) (a : Word) :
    (s.afterFirst ch a).idle = s.ran [.read s.cfg.devAddr (cmdResult1 ch)] := rfl

theorem afterPair_idle (s : State) (ch : Fin 4) (a b : Word) :
    (s.afterPair ch a b).idle = s.ran (pairReads s.cfg.devAddr ch) := by
  simp [State.afterPair, State.afterFirst, State.ran, State.idle, State.issue, State.countOk, State.upd, pairReads]

/-- READ_PAIR issues its two reads (45_operations R62). -/
theorem readPair_runs (ch : Fin 4) (s : State) : Runs (readPair ch) (pairReads s.cfg.devAddr ch) s := by
  refine ⟨fun hok => ?_, fun n hn hok hstop => ?_⟩
  · obtain ⟨a, ha⟩ := Option.isSome_iff_exists.mp (hok 0 (by simp [pairReads]))
    obtain ⟨b, hb⟩ := Option.isSome_iff_exists.mp (hok 1 (by simp [pairReads]))
    exact ⟨_, readPair_ok ch ha hb, afterPair_idle s ch a b⟩
  · simp only [pairReads, List.length_cons, List.length_nil] at hn
    have hcases : n = 0 ∨ n = 1 := by omega
    rcases hcases with rfl | rfl
    · rw [readPair_stop_first ch hstop]
      exact congrArg Except.error (stopAt_of_idle_eq hstop rfl)
    · obtain ⟨a, ha⟩ := Option.isSome_iff_exists.mp (hok 0 (by omega))
      rw [readPair_stop_second ch ha hstop]
      refine congrArg Except.error (stopAt_of_idle_eq hstop ?_)
      simp [State.afterFirst, State.ran, State.idle, State.issue, State.countOk, State.upd, pairReads]

/-- The four pairs in order issue the eight reads (45_operations R64). -/
theorem readAllPairs_runs (s : State) : Runs readAllPairs (allReads s.cfg.devAddr) s := by
  have next : ∀ (ch : Fin 4) (ts : List Transaction) (t : State), t.idle = s.ran ts →
      Runs (readPair ch) (pairReads s.cfg.devAddr ch) t := by
    intro ch ts t ht
    have hc : t.cfg = s.cfg := show t.idle.cfg = (s.ran ts).cfg from congrArg State.cfg ht
    rw [← hc]
    exact readPair_runs ch t
  have h01 := (readPair_runs 0 s).bind (fun t _ ht => next 1 _ t ht)
  have h012 := h01.bind (fun t _ ht => next 2 _ t ht)
  have h0123 := h012.bind (fun t _ ht => next 3 _ t ht)
  have heq : readAllPairs = fun s => ((readPair 0 s >>= readPair 1) >>= readPair 2) >>= readPair 3 := by
    funext u
    simp only [readAllPairs]
    cases readPair 0 u with
    | error e => rfl
    | ok v =>
      simp only [run_ok_bind]
      cases readPair 1 v with
      | error e => rfl
      | ok w => rfl
  rw [heq]
  exact h0123

end Sys2Proof.Machine
end

