-- ==== Sys2Proof/Laws/Operations.lean ====
section
/-! SUPPORT. What the four pairs leave in the working registers, what the units then find there, and each operation as a
launch of its steps (45_operations R63 to R71). -/

namespace Sys2Proof.Machine

/-! ### Each operation as a launch -/

theorem exec_rdCh (sel : BitVec 4) (s : State) : exec (.rdCh sel) s =
    launch (.rdCh sel) s.cfg.plain (fun _ s => readPair (chanOf sel) s >>= rdChTail (chanOf sel)) s := rfl

theorem exec_rdAll (s : State) : exec .rdAll s =
    launch .rdAll s.cfg.plain (fun _ s => readAllPairs s >>= rdAllTail) s := rfl

theorem exec_rdAdc (s : State) : exec .rdAdc s =
    launch .rdAdc s.cfg.plain (fun _ s => readAllPairs s >>= rdAdcTail) s := rfl

theorem exec_rdXyz (s : State) : exec .rdXyz s =
    launch .rdXyz s.cfg.coeffs (fun o s => readAllPairs s >>= rdXyzTail o) s := rfl

theorem exec_rdXy (s : State) : exec .rdXy s =
    launch .rdXy s.cfg.coeffs (fun o s => readAllPairs s >>= rdXyTail o) s := rfl

theorem exec_rdLux (s : State) : exec .rdLux s =
    launch .rdLux s.cfg.plain (fun _ s => readPair 1 s >>= rdLuxTail) s := rfl

theorem exec_rdRgb (s : State) : exec .rdRgb s =
    launch .rdRgb s.cfg.rgb (fun c s => readAllPairs s >>= rdRgbTail c) s := rfl

theorem exec_rdThr (sel : BitVec 4) (s : State) : exec (.rdThr sel) s =
    launch (.rdThr sel) s.cfg.plain (fun _ s => readThreshold sel s >>= rdThrTail) s := rfl

theorem exec_wrThr (sel : BitVec 4) (mant : BitVec 12) (exp : BitVec 4) (s : State) : exec (.wrThr sel mant exp) s =
    launch (.wrThr sel mant exp) s.cfg.plain (fun _ s => writeThreshold sel mant exp s >>= respond none .none) s := rfl

/-! ### The configuration an operation reads (10_state R11) -/

theorem allEntries_values (o : Mat3 NumQ) : allEntries (Mat3.values o) = some o := rfl

theorem allEntries_eq_some {m : Mat3 (Option NumQ)} {o : Mat3 NumQ} : allEntries m = some o ↔ m = Mat3.values o := by
  constructor
  · intro h
    obtain ⟨e00, e01, e02, e10, e11, e12, e20, e21, e22⟩ := m
    cases e00 <;> cases e01 <;> cases e02 <;> cases e10 <;> cases e11 <;> cases e12 <;> cases e20 <;> cases e21 <;>
      cases e22 <;> simp [allEntries] at h
    subst h
    rfl
  · rintro rfl
    rfl

/-- When RD_RGB finds its configuration well formed, and what it reads then. -/
theorem rgb_eq_some {c : Cfg} {r : RgbCfg} : c.rgb = some r ↔
    c.m = Mat3.values r.coeffs ∧ c.mrgb = Mat3.values r.mrgb ∧ c.wx = some r.wx ∧ c.wy = some r.wy ∧
      c.pow512 = some r.pow512 ∧ c.compandFn = r.compandFn ∧ r.wx ≠ 0 ∧ r.wy ≠ 0 := by
  obtain ⟨o, g, wx, wy, f, p⟩ := r
  simp only [Cfg.rgb, Cfg.coeffs, Option.bind_eq_bind, Option.bind_eq_some_iff, allEntries_eq_some]
  constructor
  · rintro ⟨o', ho, g', hg, wx', hwx, wy', hwy, p', hp, h⟩
    split at h
    · exact absurd h (by simp)
    · rename_i hne
      simp only [Option.some.injEq, RgbCfg.mk.injEq] at h
      obtain ⟨rfl, rfl, rfl, rfl, rfl, rfl⟩ := h
      exact ⟨ho, hg, hwx, hwy, hp, rfl, fun h => hne (.inl h), fun h => hne (.inr h)⟩
  · rintro ⟨ho, hg, hwx, hwy, hp, rfl, hx, hy⟩
    exact ⟨o, ho, g, hg, wx, hwx, wy, hwy, p, hp, by simp [hx, hy]⟩

/-! ### The four pairs -/

/-- The state after four successful pairs. -/
def State.afterAllPairs (s : State) (a0 b0 a1 b1 a2 b2 a3 b3 : Word) : State :=
  (((s.afterPair 0 a0 b0).afterPair 1 a1 b1).afterPair 2 a2 b2).afterPair 3 a3 b3

@[simp] theorem linkEvent_afterPair (s : State) (ch : Fin 4) (a b : Word) (n : Nat) :
    (s.afterPair ch a b).linkEvent n = s.linkEvent (n + 2) := by
  simp [State.afterPair, State.afterFirst]

/-- Eight Ok answers: the four pairs go on. -/
theorem readAllPairs_ok {s : State} {a0 b0 a1 b1 a2 b2 a3 b3 : Word}
    (h : s.answers [a0, b0, a1, b1, a2, b2, a3, b3]) :
    readAllPairs s = .ok (s.afterAllPairs a0 b0 a1 b1 a2 b2 a3 b3) := by
  have e : ∀ n < 8, linkWord (s.linkEvent n) = [a0, b0, a1, b1, a2, b2, a3, b3][n]? := h
  have p0 := readPair_ok (s := s) 0 (e 0 (by decide)) (e 1 (by decide))
  have p1 := readPair_ok (s := s.afterPair 0 a0 b0) 1 (a := a1) (b := b1)
    (by simpa using e 2 (by decide)) (by simpa using e 3 (by decide))
  have p2 := readPair_ok (s := (s.afterPair 0 a0 b0).afterPair 1 a1 b1) 2 (a := a2) (b := b2)
    (by simpa using e 4 (by decide)) (by simpa using e 5 (by decide))
  have p3 := readPair_ok (s := ((s.afterPair 0 a0 b0).afterPair 1 a1 b1).afterPair 2 a2 b2) 3 (a := a3) (b := b3)
    (by simpa using e 6 (by decide)) (by simpa using e 7 (by decide))
  simp only [readAllPairs, p0, p1, p2, p3, run_ok_bind, State.afterAllPairs]

/-- What the link has answered when it has answered n transactions Ok. -/
theorem answers_of_okUpTo {s : State} {n : Nat} (h : s.okUpTo n) : ∃ ws : List Word, ws.length = n ∧ s.answers ws := by
  refine ⟨(List.range n).map fun m => (linkWord (s.linkEvent m)).getD 0, by simp, fun m hm => ?_⟩
  simp only [List.length_map, List.length_range] at hm
  obtain ⟨w, hw⟩ := Option.isSome_iff_exists.mp (h m hm)
  simp [hm, hw]

/-- The CRC of a pair as the units compute it from the reading. -/
theorem crcOf_reassemble (a b : Word) :
    crcOf (rdExp (reassemble a b)) (rdMant (reassemble a b)) (rdCnt (reassemble a b)) = pairCrc a b := by
  have hfields : rdExp (a ++ b) = pairExp a ∧ rdMant (a ++ b) = pairMant a b ∧ rdCnt (a ++ b) = pairCnt b := by
    refine ⟨?_, ?_, ?_⟩ <;>
    · apply BitVec.eq_of_getLsbD_eq
      intro i hi
      simp only [rdExp, rdMant, rdCnt, pairExp, pairMant, pairCnt, BitVec.getLsbD_extractLsb', BitVec.getLsbD_append]
      interval_cases i <;> simp
  rw [reassemble_eq_append, hfields.1, hfields.2.1, hfields.2.2, pairCrc]

theorem rdCrc_reassemble (a b : Word) : rdCrc (reassemble a b) = pairCrcField b := by
  rw [reassemble_eq_append]
  apply BitVec.eq_of_getLsbD_eq
  intro i hi
  simp only [rdCrc, pairCrcField, BitVec.getLsbD_extractLsb', BitVec.getLsbD_append]
  interval_cases i <;> simp

theorem afterPair_rd (s : State) (ch : Fin 4) (a b : Word) :
    (s.afterPair ch a b).work.rd = s.work.rd.set ch (some (reassemble a b)) := rfl

theorem afterPair_crcc (s : State) (ch : Fin 4) (a b : Word) :
    (s.afterPair ch a b).work.crcc = s.work.crcc.set ch (some (pairCrc a b)) := by
  rw [← crcOf_reassemble]
  rfl

theorem afterPair_crcerr (s : State) (ch : Fin 4) (a b : Word) :
    (s.afterPair ch a b).work.crcerr = s.work.crcerr.set ch (some (pairFlag a b)) := by
  rw [pairFlag, ← crcOf_reassemble, ← rdCrc_reassemble a b]
  rfl

section AfterAllPairs

variable (s : State) (a0 b0 a1 b1 a2 b2 a3 b3 : Word)

@[simp] theorem afterAllPairs_rd : (s.afterAllPairs a0 b0 a1 b1 a2 b2 a3 b3).work.rd =
    ⟨some (reassemble a0 b0), some (reassemble a1 b1), some (reassemble a2 b2), some (reassemble a3 b3)⟩ := rfl

@[simp] theorem afterAllPairs_crcc : (s.afterAllPairs a0 b0 a1 b1 a2 b2 a3 b3).work.crcc =
    ⟨some (pairCrc a0 b0), some (pairCrc a1 b1), some (pairCrc a2 b2), some (pairCrc a3 b3)⟩ := by
  simp only [State.afterAllPairs, afterPair_crcc]
  rfl

@[simp] theorem afterAllPairs_crcerr : (s.afterAllPairs a0 b0 a1 b1 a2 b2 a3 b3).work.crcerr =
    ⟨some (pairFlag a0 b0), some (pairFlag a1 b1), some (pairFlag a2 b2), some (pairFlag a3 b3)⟩ := by
  simp only [State.afterAllPairs, afterPair_crcerr]
  rfl

/-- What the other agents see of four successful pairs. -/
theorem afterAllPairs_idle : (s.afterAllPairs a0 b0 a1 b1 a2 b2 a3 b3).idle = s.ran (allReads s.cfg.devAddr) := by
  simp only [State.afterAllPairs]
  rw [afterPair_idle, ← ran_idle, afterPair_idle, ran_ran, ← ran_idle, afterPair_idle, ran_ran, ← ran_idle,
    afterPair_idle, ran_ran]
  simp only [allReads, List.append_assoc]
  rfl

end AfterAllPairs

/-- What eight Ok answers leave: all that a later unit or a response can find. -/
theorem readAllPairs_leaves {s : State} {a0 b0 a1 b1 a2 b2 a3 b3 : Word}
    (h : s.answers [a0, b0, a1, b1, a2, b2, a3, b3]) :
    ∃ u : State, readAllPairs s = .ok u ∧ u.idle = s.ran (allReads s.cfg.devAddr) ∧
      u.work.rd = ⟨some (reassemble a0 b0), some (reassemble a1 b1), some (reassemble a2 b2), some (reassemble a3 b3)⟩ ∧
      u.work.crcc = ⟨some (pairCrc a0 b0), some (pairCrc a1 b1), some (pairCrc a2 b2), some (pairCrc a3 b3)⟩ ∧
      u.work.crcerr = ⟨some (pairFlag a0 b0), some (pairFlag a1 b1), some (pairFlag a2 b2), some (pairFlag a3 b3)⟩ :=
  ⟨_, readAllPairs_ok h, afterAllPairs_idle .., afterAllPairs_rd .., afterAllPairs_crcc .., afterAllPairs_crcerr ..⟩

/-- What two Ok answers to a pair leave. -/
theorem readPair_leaves {s : State} {a b : Word} (ch : Fin 4) (h : s.answers [a, b]) :
    ∃ u : State, readPair ch s = .ok u ∧ u.idle = s.ran (pairReads s.cfg.devAddr ch) ∧
      u.work.rd.get ch = some (reassemble a b) ∧ u.work.crcc.get ch = some (pairCrc a b) ∧
      u.work.crcerr.get ch = some (pairFlag a b) :=
  ⟨_, readPair_ok ch (h 0 (by simp)) (h 1 (by simp)), afterPair_idle .., by simp [afterPair_rd],
    by simp [afterPair_crcc], by simp [afterPair_crcerr]⟩

/-- The answer to a request whose steps left `u`: what the other agents see is the state after the response. -/
theorem respond_ran {s u : State} {ts : List Transaction} (h : u.idle = s.ran ts) (e : Option (BitVec 4)) (p : Payload) :
    respond e p u = .ok (s.afterResponse ts ⟨0, e, p⟩) := by
  have hd : u.delivered = s.delivered := show u.idle.delivered = (s.ran ts).delivered from congrArg State.delivered h
  rw [respond_eq, h, hd]
  rfl

/-- The same for a hard error. -/
theorem raise_ran {s u : State} {ts : List Transaction} (h : u.idle = s.ran ts) (k : Status) (e : Option (BitVec 4)) :
    (raise k e u : Run State) = .error (.ended (s.afterResponse ts ⟨k.code, e, .none⟩)) := by
  have hd : u.delivered = s.delivered := show u.idle.delivered = (s.ran ts).delivered from congrArg State.delivered h
  rw [raise_eq, h, hd]
  rfl

/-! ### The units over four channels -/

/-- NORMQ finds the four readings. -/
theorem normq_ok {s : State} {r0 r1 r2 r3 : BitVec 32} (h : s.work.rd = ⟨some r0, some r1, some r2, some r3⟩) :
    normq s = .ok (s.upd fun w => { w with adc :=
      ⟨some (adcOfReading r0), some (adcOfReading r1), some (adcOfReading r2), some (adcOfReading r3)⟩ }) := by
  simp [normq, normAdc, h, Quad.get, Quad.set, State.upd]

/-- A response or a later unit finds the four ADC values. -/
theorem readAdc_ok {s : State} {a : Quad (BitVec 35)} (h : s.work.adc = ⟨some a.c0, some a.c1, some a.c2, some a.c3⟩) :
    readAdc s = .ok a := by
  simp [readAdc, h, Quad.get]

theorem crcerrBit_ok {s : State} {ch : Fin 4} {f : Bool} (h : s.work.crcerr.get ch = some f) :
    crcerrBit ch s = .ok (if f then (1#4) <<< ch.val else 0#4) := by
  simp [crcerrBit, h]

/-- The response field of the four flags. -/
theorem crcerrAll_ok {s : State} {a0 b0 a1 b1 a2 b2 a3 b3 : Word}
    (h : s.work.crcerr = ⟨some (pairFlag a0 b0), some (pairFlag a1 b1), some (pairFlag a2 b2), some (pairFlag a3 b3)⟩) :
    crcerrAll s = .ok (flagBit 3 a3 b3 ||| flagBit 2 a2 b2 ||| flagBit 1 a1 b1 ||| flagBit 0 a0 b0) := by
  simp [crcerrAll, crcerrBit, h, Quad.get, flagBit]

/-- MATMUL finds the four ADC values. -/
theorem matmul_ok {s : State} (o : Mat3 NumQ) {a : Quad (BitVec 35)}
    (h : s.work.adc = ⟨some a.c0, some a.c1, some a.c2, some a.c3⟩) :
    matmul o s = .ok (s.upd fun w => { w with
      x := some (matmulOut o a 0), y := some (matmulOut o a 1), z := some (matmulOut o a 2),
      lux := some (matmulOut o a 3) }) := by
  simp [matmul, readAdc_ok h]

/-! ### How an operation stops -/

/-- Every operation is a launch. -/
theorem exec_launch (i : Instr) (s : State) :
    ∃ (γ : Type) (conf : Option γ) (body : γ → State → Run State), exec i s = launch i conf body s := by
  cases i with
  | rdCh sel => exact ⟨_, _, _, exec_rdCh sel s⟩
  | rdAll => exact ⟨_, _, _, exec_rdAll s⟩
  | rdAdc => exact ⟨_, _, _, exec_rdAdc s⟩
  | rdXyz => exact ⟨_, _, _, exec_rdXyz s⟩
  | rdXy => exact ⟨_, _, _, exec_rdXy s⟩
  | rdLux => exact ⟨_, _, _, exec_rdLux s⟩
  | rdRgb => exact ⟨_, _, _, exec_rdRgb s⟩
  | rdThr sel => exact ⟨_, _, _, exec_rdThr sel s⟩
  | wrThr sel mant exp => exact ⟨_, _, _, exec_wrThr sel mant exp s⟩

theorem exec_violation {i : Instr} {s : State} {v : Violation} (hb : s.busy = false) (hv : i.violation = some v) :
    exec i s = .fault (.contractViolation v) := by
  obtain ⟨γ, conf, body, h⟩ := exec_launch i s
  rw [h, launch_violation conf body hb hv]

theorem exec_busy {i : Instr} {s : State} (hb : s.busy = true) : exec i s = .refused .requestWhileBusy := by
  obtain ⟨γ, conf, body, h⟩ := exec_launch i s
  rw [h, launch_busy i conf body hb]

theorem readThreshold_runs (sel : BitVec 4) (s : State) :
    Runs (readThreshold sel) [.read s.cfg.devAddr (cmdThreshold sel)] s := by
  refine ⟨fun hok => ?_, fun n hn hok hstop => ?_⟩
  · obtain ⟨a, ha⟩ := Option.isSome_iff_exists.mp (hok 0 (by simp))
    exact ⟨_, by simp only [readThreshold, memRead, transact_ok _ ha, run_ok_bind]; rfl, rfl⟩
  · obtain rfl : n = 0 := by simpa using hn
    simp only [readThreshold, memRead, transact_stop _ hstop, run_error_bind]
    exact congrArg Except.error (stopAt_of_idle_eq hstop rfl)

/-- WR_THR writes the threshold word it was given. -/
theorem writeThreshold_eq (sel : BitVec 4) (mant : BitVec 12) (exp : BitVec 4) (s : State) :
    writeThreshold sel mant exp s = memWrite (cmdThreshold sel) (thrWord mant exp) (threnc mant exp s) := by
  simp [writeThreshold, threnc]

theorem writeThreshold_runs (sel : BitVec 4) (mant : BitVec 12) (exp : BitVec 4) (s : State) :
    Runs (writeThreshold sel mant exp) [.write s.cfg.devAddr (cmdThreshold sel) (exp ++ mant)] s := by
  refine ⟨fun hok => ?_, fun n hn hok hstop => ?_⟩
  · obtain ⟨a, ha⟩ := Option.isSome_iff_exists.mp (hok 0 (by simp))
    have ha' : linkWord ((threnc mant exp s).linkEvent 0) = some a := ha
    exact ⟨_, by rw [writeThreshold_eq]; simp only [memWrite, transact_ok _ ha', run_ok_bind]; rfl, rfl⟩
  · obtain rfl : n = 0 := by simpa using hn
    have hstop' : linkWord ((threnc mant exp s).linkEvent 0) = none := hstop
    rw [writeThreshold_eq]
    simp only [memWrite, transact_stop _ hstop', run_error_bind]
    exact congrArg Except.error (stopAt_of_idle_eq hstop rfl)

/-- A launched operation stops where its transactions stop. -/
theorem launch_stops {γ : Type} {i : Instr} {s : State} {conf : Option γ} {c : γ} {f : State → Run State}
    {g : γ → State → Run State} {n : Nat} (hb : s.busy = false) (hi : i.WellFormed) (hc : conf = some c)
    (hf : Runs f (transactionsOf s.cfg.devAddr i) (s.accept (encode i)))
    (hn : n < (transactionsOf s.cfg.devAddr i).length) (hok : s.okUpTo n) (hstop : linkWord (s.linkEvent n) = none) :
    launch i conf (fun c s => f s >>= g c) s =
      outcome (.error (stopAt (s.linkEvent n) (s.ran ((transactionsOf s.cfg.devAddr i).take (n + 1))))) := by
  rw [launch_runs _ hb hi hc, hf.2 n hn hok hstop]
  rfl

/-- Every operation stops at the first of its transactions that is not answered Ok. -/
theorem exec_stops {i : Instr} {s : State} {n : Nat} (hb : s.busy = false) (hi : i.WellFormed)
    (hc : configuredFor s.cfg i = true) (hn : n < (transactionsOf s.cfg.devAddr i).length) (hok : s.okUpTo n)
    (hstop : linkWord (s.linkEvent n) = none) :
    exec i s = outcome (.error (stopAt (s.linkEvent n) (s.ran ((transactionsOf s.cfg.devAddr i).take (n + 1))))) := by
  cases i with
  | rdCh sel => exact (exec_rdCh sel s).trans (launch_stops (conf := s.cfg.plain) hb hi rfl (readPair_runs _ _) hn hok hstop)
  | rdAll => exact (exec_rdAll s).trans (launch_stops (conf := s.cfg.plain) hb hi rfl (readAllPairs_runs _) hn hok hstop)
  | rdAdc => exact (exec_rdAdc s).trans (launch_stops (conf := s.cfg.plain) hb hi rfl (readAllPairs_runs _) hn hok hstop)
  | rdXyz =>
    obtain ⟨o, ho⟩ := Option.isSome_iff_exists.mp hc
    exact (exec_rdXyz s).trans (launch_stops hb hi ho (readAllPairs_runs _) hn hok hstop)
  | rdXy =>
    obtain ⟨o, ho⟩ := Option.isSome_iff_exists.mp hc
    exact (exec_rdXy s).trans (launch_stops hb hi ho (readAllPairs_runs _) hn hok hstop)
  | rdLux => exact (exec_rdLux s).trans (launch_stops (conf := s.cfg.plain) hb hi rfl (readPair_runs _ _) hn hok hstop)
  | rdRgb =>
    obtain ⟨o, ho⟩ := Option.isSome_iff_exists.mp hc
    exact (exec_rdRgb s).trans (launch_stops hb hi ho (readAllPairs_runs _) hn hok hstop)
  | rdThr sel => exact (exec_rdThr sel s).trans (launch_stops (conf := s.cfg.plain) hb hi rfl (readThreshold_runs _ _) hn hok hstop)
  | wrThr sel mant exp => exact (exec_wrThr sel mant exp s).trans (launch_stops (conf := s.cfg.plain) hb hi rfl (writeThreshold_runs _ _ _ _) hn hok hstop)

/-! ### The fields and the ADC value of a reading -/

/-- The fields of {W1, W2} are those of the two words (30_encoding R32). -/
theorem rdFields_append (w1 w2 : Word) : rdExp (w1 ++ w2) = pairExp w1 ∧ rdMant (w1 ++ w2) = pairMant w1 w2 ∧
    rdCnt (w1 ++ w2) = pairCnt w2 ∧ rdCrc (w1 ++ w2) = pairCrcField w2 := by
  refine ⟨?_, ?_, ?_, ?_⟩ <;>
  · apply BitVec.eq_of_getLsbD_eq
    intro i hi
    simp only [rdExp, rdMant, rdCnt, rdCrc, pairExp, pairMant, pairCnt, pairCrcField, BitVec.getLsbD_extractLsb',
      BitVec.getLsbD_append]
    interval_cases i <;> simp

/-- The shift loses no bit (41_adc_normalizer R45). -/
theorem adcOf_toNat (mant : BitVec 20) (exp : BitVec 4) :
    (adcOf mant exp).toNat = mant.toNat * 2 ^ exp.toNat ∧ mant.toNat * 2 ^ exp.toNat ≤ 34359705600 := by
  have hm := mant.isLt
  have he := exp.isLt
  have h2 : 2 ^ exp.toNat ≤ 2 ^ 15 := Nat.pow_le_pow_right (by decide) (by omega)
  have h3 : mant.toNat * 2 ^ exp.toNat ≤ (2 ^ 20 - 1) * 2 ^ 15 := Nat.mul_le_mul (by omega) h2
  refine ⟨?_, by omega⟩
  simp only [adcOf, BitVec.toNat_shiftLeft, BitVec.toNat_setWidth, Nat.shiftLeft_eq]
  rw [Nat.mod_eq_of_lt (a := mant.toNat) (by omega), Nat.mod_eq_of_lt (by omega)]

/-! ### The power function -/

/-- POW512 is at least 1 from 1 on (P4 of 42_color_pipeline R57, from P1 and P2). -/
theorem pow512_ge_one (p : Config.Pow512) {v : NumQ} (h : 1 ≤ v) : 1 ≤ p.fn v := by
  rw [← p.one]
  exact p.mono 1 v (by norm_num) h

end Sys2Proof.Machine
end

