-- ==== Sys2Proof/Laws/PerInstr.lean ====
section
/-! SUPPORT. One statement for every instruction: the word the encoder gives is of the instruction's own row of the
operation map, its columns `match` and `mask` (30_encoding R36). -/

namespace Sys2Proof.Laws.TableWord

/-- The masked bits of the encoded word are the row's. -/
def Statement (i : Instr) : Prop := encode i &&& (tableRow i).2 = (tableRow i).1

theorem rdCh (sel : BitVec 4) : Statement (.rdCh sel) := by
  revert sel
  unfold Statement
  decide

theorem rdAll : Statement .rdAll := by
  unfold Statement
  decide

theorem rdAdc : Statement .rdAdc := by
  unfold Statement
  decide

theorem rdXyz : Statement .rdXyz := by
  unfold Statement
  decide

theorem rdXy : Statement .rdXy := by
  unfold Statement
  decide

theorem rdLux : Statement .rdLux := by
  unfold Statement
  decide

theorem rdRgb : Statement .rdRgb := by
  unfold Statement
  decide

theorem rdThr (sel : BitVec 4) : Statement (.rdThr sel) := by
  revert sel
  unfold Statement
  decide

theorem wrThr (sel : BitVec 4) (mant : BitVec 12) (exp : BitVec 4) : Statement (.wrThr sel mant exp) := by
  unfold Statement
  apply BitVec.eq_of_getLsbD_eq
  intro i hi
  simp only [encode, tableRow, reqWord, BitVec.getLsbD_append, BitVec.getLsbD_and]
  interval_cases i <;> simp

end Sys2Proof.Laws.TableWord
end

