-- ==== Sys2Proof/Tests/Slice0.lean ====
section
/-! SUPPORT. Tests of single steps against 95_test_vectors, the smoke test of WellFormed, decoded words written out from
30_encoding R35 and R36, and a witness for the hypotheses of every statement that has some. -/

namespace Sys2Proof.Machine.Tests

/-! ### Helpers -/

/-- The link answers these words, high byte first (20_memory R21). -/
def ans (ws : List Word) : List LinkEvent :=
  ws.map fun w => .answer (.ok (w.extractLsb' 8 8) (w.extractLsb' 0 8))

/-- The matrix T1, which is also the 3 x 3 identity (95_test_vectors, CFG_T). -/
def t1 : Mat3 NumQ := ⟨1, 0, 0, 0, 1, 0, 0, 0, 1⟩

/-- CFG_T of 95_test_vectors. -/
def cfgT : Cfg :=
  { devAddr := 0x44, m := Mat3.values t1, mrgb := Mat3.values t1, wx := some 1000, wy := some 500, wz := some 7,
    compandFn := .srgb, pow512 := some 0 }

/-- An idle block under CFG_T with these link events ahead. -/
def st (link : List LinkEvent) : State := { State.reset with cfg := cfgT, link := link }

/-- The same with a host event presented. -/
def presented (e : HostEvent) (link : List LinkEvent) : State := { st link with host := [e] }

/-- A block with an operation in flight. -/
def busy : State := { st [] with busy := true }

/-- A configuration in which the entries of M and MRGB hold no value. -/
def bare : State := { st [] with cfg := { cfgT with m := .fill none, mrgb := .fill none } }

/-- The responses a step adds to none, when it ends in a next state. -/
def responses : Host.Outcome State Fault Refusal → Option (List Response)
  | .next s => some s.delivered
  | .fault _ => none
  | .refused _ => none

/-- The transactions a step adds to none, when it ends in a next state. -/
def transactions : Host.Outcome State Fault Refusal → Option (List Transaction)
  | .next s => some s.issued
  | .fault _ => none
  | .refused _ => none

/-- The next state, when there is one. -/
def nextOf : Host.Outcome State Fault Refusal → Option State
  | .next s => some s
  | .fault _ => none
  | .refused _ => none

theorem eq_next {o : Host.Outcome State Fault Refusal} {s : State} (h : nextOf o = some s) : o = .next s := by
  cases o <;> simp_all [nextOf]

/-- The fault, when there is one. -/
def faultOf : Host.Outcome State Fault Refusal → Option Fault
  | .next _ => none
  | .fault f => some f
  | .refused _ => none

/-- The refusal, when there is one. -/
def refusalOf : Host.Outcome State Fault Refusal → Option Refusal
  | .next _ => none
  | .fault _ => none
  | .refused why => some why

/-- The link table of program P3 of 95_test_vectors: ADC = (1000, 2000, 3000, 4000). -/
def p3 : List Word := [0x0003, 0xE808, 0x4000, 0x7D9A, 0x000B, 0xB824, 0x000F, 0xA03B]

/-- The link table of 45_operations R64. -/
def r64 : List Word := [0x0000, 0x0100, 0xF000, 0x0101, 0x0FFF, 0xFF0C, 0xFFFF, 0xFFFC]

/-! ### WellFormed refuses each ill-formed term (30_encoding R37 (b)) -/

theorem test_wellFormed_rdCh_4 : ¬ (Instr.rdCh 4).WellFormed := by decide
theorem test_wellFormed_rdCh_3 : (Instr.rdCh 3).WellFormed := by decide
theorem test_wellFormed_rdThr_2 : ¬ (Instr.rdThr 2).WellFormed := by decide
theorem test_wellFormed_wrThr_2 : ¬ (Instr.wrThr 2 0x208 3).WellFormed := by decide
theorem test_wellFormed_wrThr_1 : (Instr.wrThr 1 0xFFF 15).WellFormed := by decide

/-! ### Decoding words written out from the encoding {OPSEL, SEL, DATA} (30_encoding R35, R36; 95_test_vectors P1 to P7) -/

theorem test_decode_rdCh : decode 0b0000_0011_0000_0000_0000_0000 = .ok (.rdCh 3) := by decide
theorem test_decode_rdAll : decode 0b0001_0000_0000_0000_0000_0000 = .ok .rdAll := by decide
theorem test_decode_rdAdc : decode 0b0010_0000_0000_0000_0000_0000 = .ok .rdAdc := by decide
theorem test_decode_rdXyz : decode 0b0011_0000_0000_0000_0000_0000 = .ok .rdXyz := by decide
theorem test_decode_rdXy : decode 0b0100_0000_0000_0000_0000_0000 = .ok .rdXy := by decide
theorem test_decode_rdLux : decode 0b0101_0000_0000_0000_0000_0000 = .ok .rdLux := by decide
theorem test_decode_rdRgb : decode 0b0110_0000_0000_0000_0000_0000 = .ok .rdRgb := by decide
theorem test_decode_rdThr : decode 0b0111_0001_0000_0000_0000_0000 = .ok (.rdThr 1) := by decide
theorem test_decode_wrThr : decode 0b1000_0001_0011_0010_0000_1000 = .ok (.wrThr 1 0x208 3) := by decide
theorem test_decode_reserved : decode 0b1001_0000_0000_0000_0000_0000 = .error .reservedOpsel := by decide
theorem test_decode_rdCh_4 : decode 0b0000_0100_0000_0000_0000_0000 = .error .illegalSel := by decide
theorem test_decode_rdAll_data : decode 0b0001_0000_0000_0000_0000_0001 = .error .nonzeroData := by decide
theorem test_decode_rdAll_sel : decode 0b0001_0001_0000_0000_0000_0000 = .error .illegalSel := by decide
theorem test_decodeTableWord : decodeTableWord 24 0x710000 = some (.rdThr 1) := by decide

/-! ### One step of each operation -/

/-- Program P1: a CRC mismatch is flagged and the payload delivered. -/
theorem test_rdCh_P1 : responses (step (presented (.request 0x000000) (ans [0x3208, 0x45F0]))) =
    some [⟨0, some 0b0001, .reading 3 0x20845 0xF 0x0 0xA⟩] := by decide
/-- S6: the first read fails, the second is not issued. -/
theorem test_rdCh_S6 : transactions (exec (.rdCh 1) (st [.answer (.err .timeout)])) = some [.read 0x44 0x02] := by decide
/-- The worked example of 45_operations R64. -/
theorem test_rdAll_R64 : responses (exec .rdAll (st (ans r64))) =
    some [⟨0, some 0b0011, .readings ⟨0x00000100, 0xF0000101, 0x0FFFFF0C, 0xFFFFFFFC⟩ ⟨0x1, 0x5, 0xC, 0xC⟩⟩] := by
  decide
/-- Program P2, request 1: the read of 0x05 fails; no later read, no CRCERR, no payload. -/
theorem test_rdAll_P2 :
    let o := exec .rdAll (st (ans [0x0000, 0x0101, 0xF000, 0x0105, 0x0FFF] ++ [.answer (.err .nackOnData)]))
    responses o = some [⟨3, none, .none⟩] ∧ (transactions o).map List.length = some 6 := by decide
/-- The worked example of 45_operations R65. -/
theorem test_rdAdc_R65 : responses (exec .rdAdc (st (ans r64))) =
    some [⟨0, some 0b0011, .adc ⟨1, 32768, 1048575, 34359705600⟩⟩] := by decide
/-- Program P3, request 2. -/
theorem test_rdXyz_P3 : responses (exec .rdXyz (st (ans p3))) = some [⟨0, some 0, .xyz 1000 2000 3000 (43 / 10)⟩] := by
  decide +kernel
/-- Program P3, request 3. -/
theorem test_rdXy_P3 : responses (exec .rdXy (st (ans p3))) = some [⟨0, some 0, .xy (1 / 6) (1 / 3)⟩] := by
  decide +kernel
/-- Program P4, request 1: a dark sensor. -/
theorem test_rdXy_P4 : responses (exec .rdXy (st (ans [0, 0, 0, 0, 0, 0, 0, 0]))) = some [⟨6, some 0, .none⟩] := by
  decide +kernel
/-- Program P3, request 4: two reads only. -/
theorem test_rdLux_P3 :
    let o := exec .rdLux (st (ans [0x4000, 0x7D9A]))
    responses o = some [⟨0, some 0, .lux (43 / 10)⟩] ∧ transactions o = some [.read 0x44 0x02, .read 0x44 0x03] := by
  decide +kernel
/-- V5, fifth row: the Lux of the largest ADC value. -/
theorem test_rdLux_V5 : luxOf 34359705600 = 1846834176 / 25 := by decide +kernel
/-- Program P4, request 2: the RGB path has no domain error. -/
theorem test_rdRgb_P4 : responses (exec .rdRgb (st (ans [0, 0, 0, 0, 0, 0, 0, 0]))) =
    some [⟨0, some 0, .rgb 0 0 0⟩] := by decide +kernel
/-- V8, second and third rows: Z is divided by WY. -/
theorem test_rdRgb_V8 : linearRgb ⟨t1, t1, 1000, 500, .srgb, 0⟩ 1000 1 2000 = (1, 1 / 500, 4) ∧
    linearRgb ⟨t1, t1, 1000, 500, .srgb, 0⟩ 1000 500 500 = (1, 1, 1) := by decide +kernel
/-- The worked example of 45_operations R70. -/
theorem test_rdThr_R70 :
    let o := exec (.rdThr 0) (st (ans [0x3208]))
    responses o = some [⟨0, none, .threshold 3 0x208 4160⟩] ∧ transactions o = some [.read 0x44 0x08] := by decide
/-- V4, second row. -/
theorem test_rdThr_V4 : thradc 0xFFF 15 = 134184960 := by decide
/-- The worked example of 45_operations R71. -/
theorem test_wrThr_R71 :
    let o := step (presented (.request 0x81FFFF) (ans [0]))
    responses o = some [⟨0, none, .none⟩] ∧ transactions o = some [.write 0x44 0x09 0xFFFF] := by decide
/-- A failing write reports the link's error. -/
theorem test_wrThr_nack : responses (exec (.wrThr 0 1 1) (st [.answer (.err .nackOnAddress)])) =
    some [⟨2, none, .none⟩] := by decide

/-! ### Units -/

/-- V2: the rows that tell the output bits apart. -/
theorem test_crc4_V2 : crcOf 0x0 0x00001 0x0 = 0x1 ∧ crcOf 0x0 0x00002 0x0 = 0x2 ∧ crcOf 0x0 0x00082 0x0 = 0x4 ∧
    crcOf 0x0 0x00088 0x0 = 0x8 ∧ crcOf 0x8 0xAAAAA 0xA = 0xE ∧ crcOf 0x7 0x55555 0x5 = 0x2 := by decide
/-- V3: the row that a 32-bit shift would lose. -/
theorem test_norm_V3 : adcOf 0x80000 15 = 17179869184 ∧ adcOf 0x12345 7 = 9544320 := by decide
/-- V6: a zero sum of nonzero terms, and a negative sum. -/
theorem test_xyconv_V6 : chromaticity 1 (-1) 0 = none ∧ chromaticity (-1) (-1) (-1) = some (1 / 3, 1 / 3) := by
  decide +kernel
/-- V7: the threshold takes the linear branch; a negative value is clamped. -/
theorem test_compand_V7 : compandFn .srgb 0 (7827 / 2500000) = 2528121 / 62500000 ∧
    clamp (compandFn .srgb 0 (-1 / 2)) = 0 ∧ compandFn .srgb 0 (-1 / 2) = -646 / 100 := by decide +kernel
/-- V7, the rows exact by P1 and P4. -/
theorem test_compand_P1_P4 : clamp (compandFn .srgb 0 1) = 1 ∧ clamp (compandFn .srgb 0 4) = 1 := by
  have h4 := pow512_ge_one (Config.pow512 0) (v := 4) (by norm_num)
  have hone := (Config.pow512 0).one
  have t : ¬ (1 : NumQ) ≤ compandThreshold ∧ ¬ (4 : NumQ) ≤ compandThreshold := by norm_num [compandThreshold]
  constructor
  · simp only [compandFn, compand, t.1, if_false, hone, compandGain, compandOffset, clamp]
    norm_num
  · simp only [compandFn, compand, t.2, if_false, compandGain, compandOffset, clamp]
    split_ifs <;> linarith

/-! ### Reset, refusals, the host's other events -/

theorem test_reset_in_flight : nextOf (step (presented (.request 0x100000) (ans [0x0003, 0xE808] ++ [.host .reset]))) =
    some { State.reset with issued := [.read 0x44 0x00, .read 0x44 0x01, .read 0x44 0x02] } := by decide
theorem test_request_in_flight : refusalOf (exec .rdAll (st [.host (.request 0x000000)])) = some .requestWhileBusy := by
  decide
theorem test_configure_in_flight : refusalOf (exec .rdAll (st [.host (.configure cfgT)])) = some .configureWhileBusy := by
  decide
theorem test_bare_rdXyz : refusalOf (exec .rdXyz bare) = some .illFormedConfig := by decide
/-- RD_ADC reads no OPEN entry of the configuration (10_state R11). -/
theorem test_bare_rdAdc : responses (exec .rdAdc { bare with link := ans r64 }) =
    some [⟨0, some 0b0011, .adc ⟨1, 32768, 1048575, 34359705600⟩⟩] := by decide
theorem test_violation_P7 : faultOf (step (presented (.request 0x040000) [])) = some (.contractViolation .illegalSel) := by
  decide
/-- withFetchWord puts the request where the next step takes it. -/
theorem test_withFetchWord : responses (step (State.reset.withFetchWord 24 0x600000)) = some [⟨1, none, .none⟩] := by
  decide

/-! ### Witnesses: for every statement with hypotheses, a state and operands that meet them -/

theorem witness_DecodeOfEncode : (Instr.wrThr 1 0xFFF 15).WellFormed ∧ (Instr.rdCh 0).WellFormed := by decide
theorem witness_EncodeOfDecode : decode 0x81FFFF = .ok (.wrThr 1 0xFFF 15) ∧ decode 0x000000 = .ok (.rdCh 0) := by decide
theorem witness_TableRow : decode 0x030000 = .ok (.rdCh 3) ∧ decode 0x800000 = .ok (.wrThr 0 0 0) := by decide
theorem witness_ContractViolations :
    ((presented (.request 0x040000) []).host = .request 0x040000 :: [] ∧
      (presented (.request 0x040000) []).busy = false ∧ ¬ legalRequest 0x040000) ∧
    ((st []).busy = false ∧ ¬ (Instr.rdThr 2).WellFormed) := by
  unfold legalRequest
  decide
theorem witness_StepRuns : (presented (.request 0x710000) []).host = .request 0x710000 :: [] ∧
    (presented (.request 0x710000) []).busy = false ∧ decode 0x710000 = .ok (.rdThr 1) := by decide
theorem witness_StepsWithout : (st []).host = [] ∧
    (presented (.configure cfgT) []).host = .configure cfgT :: [] ∧ (presented (.configure cfgT) []).busy = false := by
  decide
/-- Resets between operations, at the first and at the last transaction. -/
theorem witness_ResetEnds : (presented .reset []).host = .reset :: [] ∧
    ∀ n : Nat, n = 0 ∨ n = 7 → ∃ s : State, Instr.rdAll.WellFormed ∧ s.busy = false ∧ configuredFor s.cfg .rdAll = true ∧
      n < (transactionsOf s.cfg.devAddr .rdAll).length ∧ s.okUpTo n ∧ s.linkEvent n = .host .reset := by
  refine ⟨rfl, ?_⟩
  rintro n (rfl | rfl)
  · exact ⟨st [.host .reset], by unfold State.okUpTo; decide⟩
  · exact ⟨st (ans (p3.take 7) ++ [.host .reset]), by unfold State.okUpTo; decide⟩
theorem witness_RequestWhileBusy : busy.busy = true ∧
    ({ busy with host := [.request 0] } : State).host = .request 0 :: [] ∧
    let s := st (ans [0x0003] ++ [.host (.request 0)])
    (Instr.rdCh 3).WellFormed ∧ s.busy = false ∧ configuredFor s.cfg (.rdCh 3) = true ∧
      1 < (transactionsOf s.cfg.devAddr (.rdCh 3)).length ∧ s.okUpTo 1 ∧ s.linkEvent 1 = .host (.request 0) := by
  unfold State.okUpTo
  decide
/-- RD_THR completes with a host event further on in the link's list, behind its one transaction. -/
theorem witness_ConfigurationIsStatic :
    (let s := st (ans [0x3208] ++ [.host .reset])
     exec (.rdThr 0) s = .next (s.afterResponse [.read 0x44 0x08] ⟨0, none, .threshold 3 0x208 4160⟩) ∧
      s.quiet (transactionsOf s.cfg.devAddr (.rdThr 0)).length) ∧
    ({ busy with host := [.configure cfgT] } : State).host = .configure cfgT :: [] ∧
    let s := st [.host (.configure cfgT)]
    (Instr.wrThr 0 1 1).WellFormed ∧ s.busy = false ∧ configuredFor s.cfg (.wrThr 0 1 1) = true ∧
      0 < (transactionsOf s.cfg.devAddr (.wrThr 0 1 1)).length ∧ s.okUpTo 0 ∧ s.linkEvent 0 = .host (.configure cfgT) := by
  refine ⟨⟨eq_next (by decide), ?_⟩, by unfold State.okUpTo; decide⟩
  intro m hm
  obtain rfl : m = 0 := Nat.lt_one_iff.mp hm
  exact ⟨_, rfl⟩
/-- Both sides of each equivalence are met: by a bare configuration and by CFG_T. -/
theorem witness_IllFormed : bare.busy = false ∧ configuredFor bare.cfg .rdRgb = false ∧ bare.cfg.coeffs = none ∧ bare.cfg.rgb = none ∧
    (st []).busy = false ∧ (st []).cfg.coeffs = some t1 ∧ (st []).cfg.rgb = some ⟨t1, t1, 1000, 500, .srgb, 0⟩ ∧
    ({ cfgT with wy := some 0 } : Cfg).rgb = none ∧
    Instr.rdAdc ≠ .rdXyz ∧ Instr.rdAdc ≠ .rdXy ∧ Instr.rdAdc ≠ .rdRgb := by decide +kernel
theorem witness_ReadTransaction : (st (ans [0x45F0])).linkEvent 0 = .answer (.ok 0x45 0xF0) := by decide
theorem witness_WriteTransaction : (st (ans [0])).linkEvent 0 = .answer (.ok 0 0) ∧
    (st [.answer (.err .nackOnData)]).linkEvent 0 = .answer (.err .nackOnData) := by decide
/-- A block in flight that has read a pair of channel 3 and computed its CRC, and holds four readings and ADC values. -/
def inFlight : State := busy.upd fun w => { w with
  w1 := some 0x3208, w2 := some 0x45F0, rd := .fill (some 0x320845F0), crcc := .fill (some 0xA),
  crcerr := ⟨some true, some false, some false, some true⟩, adc := .fill (some 1065512),
  x := some 1, y := some (-1), z := some 0 }
theorem witness_Reassembly : inFlight.work.w1 = some 0x3208 ∧ inFlight.work.w2 = some 0x45F0 := by decide
theorem witness_CrcTaps : inFlight.work.rd.get 3 = some 0x320845F0 := by decide
theorem witness_SingleBit : 4 ≤ 4 ∧ 31 < 32 := by decide
theorem witness_CrcCheck : inFlight.work.rd.get 3 = some 0x320845F0 ∧ inFlight.work.crcc.get 3 = some 0xA := by decide
theorem witness_Adc : inFlight.work.rd.get 0 = some 0x320845F0 := by decide
theorem witness_Normq : inFlight.work.rd =
    ⟨some 0x320845F0, some 0x320845F0, some 0x320845F0, some 0x320845F0⟩ := by decide
theorem witness_MatrixMultiply : inFlight.work.adc =
    ⟨some 1065512, some 1065512, some 1065512, some 1065512⟩ := by decide
theorem witness_LuxShortcut : inFlight.work.adc.get 1 = some 1065512 ∧ (st (ans p3)).busy = false ∧
    (st (ans p3)).cfg.m = Mat3.values t1 ∧
    (st (ans p3)).answers [0x0003, 0xE808, 0x4000, 0x7D9A, 0x000B, 0xB824, 0x000F, 0xA03B] ∧
    (st (ans [0x4000, 0x7D9A])).busy = false ∧ (st (ans [0x4000, 0x7D9A])).answers [0x4000, 0x7D9A] := by
  unfold State.answers
  decide
theorem witness_ChannelThree : (st (ans p3)).cfg.m = Mat3.values t1 ∧
    (st (ans p3)).answers [0x0003, 0xE808, 0x4000, 0x7D9A, 0x000B, 0xB824, 0x000F, 0xA03B] ∧
    (st (ans (p3.take 6 ++ [0xFFFF, 0xFFFF]))).answers
      [0x0003, 0xE808, 0x4000, 0x7D9A, 0x000B, 0xB824, 0xFFFF, 0xFFFF] := by
  unfold State.answers
  decide
/-- The sum 1 + (-1) + 0 is zero; with Z = 5 it is not. -/
theorem witness_Chromaticity : inFlight.work.x = some 1 ∧ inFlight.work.y = some (-1) ∧ inFlight.work.z = some 0 ∧
    inFlight.work.crcerr = ⟨some true, some false, some false, some true⟩ ∧ ((1 : NumQ) + -1) + 0 = 0 ∧
    ((inFlight.upd fun w => { w with z := some 5 }).work.z = some 5) ∧ ((1 : NumQ) + -1) + 5 ≠ 0 := by decide +kernel
theorem witness_ScaleInvariant : (2 : NumQ) ≠ 0 ∧ chromaticity 1 2 3 = some (1 / 6, 1 / 3) := by decide +kernel
theorem witness_XyzToRgb : inFlight.work.x = some 1 ∧ inFlight.work.y = some (-1) ∧ inFlight.work.z = some 0 := by
  decide +kernel
theorem witness_Compander : (7827 / 2500000 : NumQ) ≤ 7827 / 2500000 ∧ (7827 / 2500000 : NumQ) < 1 / 100 := by
  decide +kernel
theorem witness_CompanderClose : (7827 / 2500000 : NumQ) < 1 / 100 ∧ (1 / 100 : NumQ) ≤ 1 ∧
    (7827 / 2500000 : NumQ) < 1 ∧ (1 : NumQ) ≤ 1 := by decide +kernel
/-- Values at the bounds of each clause: 1, 0, the threshold, and two values above it. -/
theorem witness_ColourCorners : (⟨t1, t1, 1000, 500, .srgb, 0⟩ : RgbCfg).compandFn = .srgb ∧ (1 : NumQ) ≤ 1 ∧
    (0 : NumQ) ≤ 0 ∧ (0 : NumQ) < 7827 / 2500000 ∧ (7827 / 2500000 : NumQ) ≤ 7827 / 2500000 ∧
    (7827 / 2500000 : NumQ) < 1 / 100 ∧ (1 / 100 : NumQ) ≤ 1 / 2 := by decide +kernel
/-- SEL at both bounds, both words Ok, and the second read failing. -/
theorem witness_RdCh : (st []).busy = false ∧ 3 < (4#4).toNat ∧ (3#4).toNat ≤ 3 ∧
    (st (ans [0x3208, 0x45F0])).answers [0x3208, 0x45F0] ∧
    (let s := st (ans [0x3208] ++ [.answer (.err .nackOnData)])
     1 < (transactionsOf s.cfg.devAddr (.rdCh 3)).length ∧ s.okUpTo 1 ∧
      s.linkEvent 1 = .answer (.err .nackOnData)) := by
  unfold State.answers State.okUpTo
  decide
/-- Eight words Ok under CFG_T: what RD_ALL, RD_ADC, RD_XYZ, RD_XY and RD_RGB ask for. -/
theorem witness_eight_reads : (st (ans p3)).busy = false ∧ (st (ans p3)).cfg.m = Mat3.values t1 ∧
    (st (ans p3)).cfg.mrgb = Mat3.values t1 ∧ (st (ans p3)).cfg.wx = some 1000 ∧ (st (ans p3)).cfg.wy = some 500 ∧
    (1000 : NumQ) ≠ 0 ∧ (500 : NumQ) ≠ 0 ∧ (st (ans p3)).cfg.pow512 = some 0 ∧
    (st (ans p3)).answers [0x0003, 0xE808, 0x4000, 0x7D9A, 0x000B, 0xB824, 0x000F, 0xA03B] := by
  unfold State.answers
  decide +kernel
/-- The last of the eight reads fails, for each operation that issues them. -/
theorem witness_eighth_fails :
    let s := st (ans (p3.take 7) ++ [.answer (.err .transportUnknown)])
    (∀ i ∈ [Instr.rdAll, .rdAdc, .rdXyz, .rdXy, .rdRgb], 7 < (transactionsOf s.cfg.devAddr i).length) ∧ s.okUpTo 7 ∧
      s.linkEvent 7 = .answer (.err .transportUnknown) := by
  unfold State.okUpTo
  decide
theorem witness_RdLux : (st (ans [0x0007, 0xD004])).busy = false ∧
    (st (ans [0x0007, 0xD004])).answers [0x0007, 0xD004] := by
  unfold State.answers
  decide
theorem witness_RdThr : (st (ans [0x3208])).busy = false ∧ 1 < (2#4).toNat ∧ (1#4).toNat ≤ 1 ∧
    (st (ans [0x3208])).answers [0x3208] := by
  unfold State.answers
  decide
theorem witness_WrThr : (st (ans [0])).busy = false ∧ 1 < (15#4).toNat ∧ (0#4).toNat ≤ 1 ∧ (st (ans [0])).okUpTo 1 := by
  unfold State.okUpTo
  decide
theorem witness_DarkSensor : (st (ans [0, 0, 0, 0, 0, 0, 0, 0])).busy = false ∧
    (st (ans [0, 0, 0, 0, 0, 0, 0, 0])).answers [0, 0, 0, 0, 0, 0, 0, 0] ∧ pairMant 0 0 = 0 ∧
    configuredFor cfgT .rdXy = true ∧ configuredFor cfgT .rdRgb = true ∧ cfgT.compandFn = .srgb := by
  unfold State.answers
  decide +kernel
/-- All Ok; and each way in which the third transaction can fail to be. -/
theorem witness_EveryOperation : Instr.rdAll.WellFormed ∧ (st (ans p3)).busy = false ∧
    configuredFor (st (ans p3)).cfg .rdAll = true ∧
    (st (ans p3)).okUpTo (transactionsOf (st (ans p3)).cfg.devAddr .rdAll).length ∧
    ∀ e ∈ [LinkEvent.answer (.err .timeout), .host .reset, .host (.request 0), .host (.configure cfgT)],
      (st (ans (p3.take 2) ++ [e])).okUpTo 2 ∧ (st (ans (p3.take 2) ++ [e])).linkEvent 2 = e := by
  unfold State.okUpTo
  decide
/-- Two states with nothing in common but the configuration and the answers. -/
theorem witness_ResponseDependsOn :
    let s := st (ans [0x3208])
    let t : State := { s with issued := [.read 0 0], delivered := [⟨1, none, .none⟩], host := [.reset],
                              work := inFlight.work, op := some 0x100000 }
    s.busy = false ∧ t.busy = false ∧ s.cfg = t.cfg ∧
      (∀ n < (transactionsOf s.cfg.devAddr (.rdThr 0)).length, s.linkEvent n = t.linkEvent n) ∧
      exec (.rdThr 0) s = .next (s.afterResponse [.read 0x44 0x08] ⟨0, none, .threshold 3 0x208 4160⟩) :=
  ⟨by decide, by decide, by decide, by decide, eq_next (by decide)⟩
/-- Program P3 with the CRC field of channel 1 changed. -/
theorem witness_CrcMismatch :
    let ws' : List Word := [0x0003, 0xE808, 0x4000, 0x7D9B, 0x000B, 0xB824, 0x000F, 0xA03B]
    Instr.rdXyz ∈ [Instr.rdAdc, .rdXyz, .rdXy, .rdLux, .rdRgb] ∧ configuredFor (st (ans p3)).cfg .rdXyz = true ∧
      p3.length = (transactionsOf (st (ans p3)).cfg.devAddr .rdXyz).length ∧ ws'.length = p3.length ∧
      (∀ k, k % 2 = 0 → ws'[k]? = p3[k]?) ∧
      (∀ k, k % 2 = 1 → ws'[k]?.map (fun w => w.extractLsb' 4 12) = p3[k]?.map (fun w => w.extractLsb' 4 12)) ∧
      (st (ans p3)).answers p3 ∧ (st (ans ws')).answers ws' := by
  refine ⟨by decide, by decide, by decide, by decide, ?_, ?_, by unfold State.answers; decide,
    by unfold State.answers; decide⟩
  · intro k hk
    by_cases h : k < 8
    · interval_cases k <;> revert hk <;> decide
    · rw [List.getElem?_eq_none (by simpa using h), List.getElem?_eq_none (by simpa [p3] using h)]
  · intro k hk
    by_cases h : k < 8
    · interval_cases k <;> revert hk <;> decide
    · rw [List.getElem?_eq_none (by simpa using h), List.getElem?_eq_none (by simpa [p3] using h)]
/-- A state that meets the invariant, with a history, and its step. -/
theorem witness_EveryStepKeepsTheInvariant :
    let s : State := { presented (.request 0x700000) (ans [0x3208]) with
      issued := [.read 0x44 0x08], delivered := [⟨1, none, .none⟩] }
    s.Inv ∧ step s = .next
      ({ s with host := [] }.afterResponse [.read 0x44 0x08] ⟨0, none, .threshold 3 0x208 4160⟩) := by
  refine ⟨⟨by unfold State.Idle; decide, by decide, by decide⟩, eq_next (by decide)⟩

end Sys2Proof.Machine.Tests
end

/-! The configuration and the link as an operation sees them: what each operation answers when every transaction answers
Ok, all the ways in which an operation can end, and the statements about state, configuration and reset (10_state). -/

namespace Sys2Proof.Machine

/-! ### What the four pairs leave, and the units over it -/

section FourPairs

variable {s u : State} {a0 b0 a1 b1 a2 b2 a3 b3 : Word}

/-- The ADC values of four pairs (41_adc_normalizer R46). -/
def adcsOf (a0 b0 a1 b1 a2 b2 a3 b3 : Word) : Quad (BitVec 35) :=
  ⟨adcOfReading (reassemble a0 b0), adcOfReading (reassemble a1 b1), adcOfReading (reassemble a2 b2),
    adcOfReading (reassemble a3 b3)⟩

/-- The CRCERR field of four pairs (30_encoding R38). -/
def flagsOf (a0 b0 a1 b1 a2 b2 a3 b3 : Word) : BitVec 4 :=
  flagBit 3 a3 b3 ||| flagBit 2 a2 b2 ||| flagBit 1 a1 b1 ||| flagBit 0 a0 b0

/-- `u` holds the readings of the four pairs, which were read in an operation launched in `s`. -/
structure State.Loaded (u s : State) (a0 b0 a1 b1 a2 b2 a3 b3 : Word) : Prop where
  idle : u.idle = s.ran (allReads s.cfg.devAddr)
  rd : u.work.rd =
    ⟨some (reassemble a0 b0), some (reassemble a1 b1), some (reassemble a2 b2), some (reassemble a3 b3)⟩
  crcc : u.work.crcc = ⟨some (pairCrc a0 b0), some (pairCrc a1 b1), some (pairCrc a2 b2), some (pairCrc a3 b3)⟩
  crcerr : u.work.crcerr = ⟨some (pairFlag a0 b0), some (pairFlag a1 b1), some (pairFlag a2 b2), some (pairFlag a3 b3)⟩

/-- A unit that leaves the readings and the CRCs keeps them loaded. -/
theorem State.Loaded.upd (h : u.Loaded s a0 b0 a1 b1 a2 b2 a3 b3) (f : Work → Work) (hrd : (f u.work).rd = u.work.rd)
    (hcrcc : (f u.work).crcc = u.work.crcc) (hcrcerr : (f u.work).crcerr = u.work.crcerr) :
    (u.upd f).Loaded s a0 b0 a1 b1 a2 b2 a3 b3 :=
  ⟨h.idle, hrd.trans h.rd, hcrcc.trans h.crcc, hcrcerr.trans h.crcerr⟩

theorem State.Loaded.crcerrAll_ok (h : u.Loaded s a0 b0 a1 b1 a2 b2 a3 b3) :
    crcerrAll u = .ok (flagsOf a0 b0 a1 b1 a2 b2 a3 b3) :=
  Machine.crcerrAll_ok h.crcerr

theorem State.Loaded.readingsPayload_ok (h : u.Loaded s a0 b0 a1 b1 a2 b2 a3 b3) :
    readingsPayload u = .ok (.readings
      ⟨reassemble a0 b0, reassemble a1 b1, reassemble a2 b2, reassemble a3 b3⟩
      ⟨pairCrc a0 b0, pairCrc a1 b1, pairCrc a2 b2, pairCrc a3 b3⟩) := by
  simp [readingsPayload, h.rd, h.crcc, Quad.get]

/-- NORMQ keeps the readings and adds the ADC values. -/
theorem State.Loaded.normq_leaves (h : u.Loaded s a0 b0 a1 b1 a2 b2 a3 b3) :
    ∃ v, normq u = .ok v ∧ v.Loaded s a0 b0 a1 b1 a2 b2 a3 b3 ∧
      readAdc v = .ok (adcsOf a0 b0 a1 b1 a2 b2 a3 b3) :=
  ⟨_, normq_ok h.rd, h.upd _ rfl rfl rfl, readAdc_ok rfl⟩

/-- NORMQ and then MATMUL keep the readings and leave X, Y, Z and LUX. -/
theorem State.Loaded.matmul_leaves (h : u.Loaded s a0 b0 a1 b1 a2 b2 a3 b3) (o : Mat3 NumQ) :
    ∃ v w, normq u = .ok v ∧ matmul o v = .ok w ∧ w.Loaded s a0 b0 a1 b1 a2 b2 a3 b3 ∧
      w.work.x = some (matmulOut o (adcsOf a0 b0 a1 b1 a2 b2 a3 b3) 0) ∧
      w.work.y = some (matmulOut o (adcsOf a0 b0 a1 b1 a2 b2 a3 b3) 1) ∧
      w.work.z = some (matmulOut o (adcsOf a0 b0 a1 b1 a2 b2 a3 b3) 2) ∧
      w.work.lux = some (matmulOut o (adcsOf a0 b0 a1 b1 a2 b2 a3 b3) 3) := by
  obtain ⟨v, hv, hl, ha⟩ := h.normq_leaves
  exact ⟨v, _, hv, by rw [matmul, ha, run_ok_bind], hl.upd _ rfl rfl rfl, rfl, rfl, rfl, rfl⟩

/-- An operation that reads the four pairs answers as its later steps do from the readings. -/
theorem launch_readAllPairs {γ : Type} {i : Instr} {conf : Option γ} {c : γ} {tail : γ → State → Run State} {t : State}
    (hb : s.busy = false) (hi : i.WellFormed) (hc : conf = some c) (ha : s.answers [a0, b0, a1, b1, a2, b2, a3, b3])
    (ht : ∀ u : State, u.Loaded s a0 b0 a1 b1 a2 b2 a3 b3 → outcome (tail c u) = .next t) :
    launch i conf (fun c s => readAllPairs s >>= tail c) s = .next t := by
  obtain ⟨u, hu, hidle, hrd, hcrcc, hcrcerr⟩ := readAllPairs_leaves (s := s.accept (encode i)) ha
  rw [launch_runs _ hb hi hc, hu, run_ok_bind]
  exact ht u ⟨hidle, hrd, hcrcc, hcrcerr⟩

/-! ### The operations of four pairs, when every read is answered Ok -/

/-- RD_ALL answers the four readings (45_operations R64). -/
theorem exec_rdAll_answered (hb : s.busy = false) (ha : s.answers [a0, b0, a1, b1, a2, b2, a3, b3]) :
    exec .rdAll s = .next (s.afterResponse (allReads s.cfg.devAddr)
      ⟨0, some (flagsOf a0 b0 a1 b1 a2 b2 a3 b3),
        .readings ⟨reassemble a0 b0, reassemble a1 b1, reassemble a2 b2, reassemble a3 b3⟩
          ⟨pairCrc a0 b0, pairCrc a1 b1, pairCrc a2 b2, pairCrc a3 b3⟩⟩) := by
  rw [exec_rdAll]
  refine launch_readAllPairs (conf := s.cfg.plain) hb rfl rfl ha fun u h => ?_
  simp [rdAllTail, h.crcerrAll_ok, h.readingsPayload_ok, respond_ran h.idle]

/-- RD_ADC answers the four ADC values (45_operations R65). -/
theorem exec_rdAdc_answered (hb : s.busy = false) (ha : s.answers [a0, b0, a1, b1, a2, b2, a3, b3]) :
    exec .rdAdc s = .next (s.afterResponse (allReads s.cfg.devAddr)
      ⟨0, some (flagsOf a0 b0 a1 b1 a2 b2 a3 b3), .adc (adcsOf a0 b0 a1 b1 a2 b2 a3 b3)⟩) := by
  rw [exec_rdAdc]
  refine launch_readAllPairs (conf := s.cfg.plain) hb rfl rfl ha fun u h => ?_
  obtain ⟨v, hv, hl, hadc⟩ := h.normq_leaves
  simp [rdAdcTail, hv, hl.crcerrAll_ok, hadc, respond_ran hl.idle]

/-- RD_XYZ answers X, Y, Z and LUX (45_operations R66). -/
theorem exec_rdXyz_answered {o : Mat3 NumQ} (hb : s.busy = false) (ho : s.cfg.coeffs = some o)
    (ha : s.answers [a0, b0, a1, b1, a2, b2, a3, b3]) :
    exec .rdXyz s = .next (s.afterResponse (allReads s.cfg.devAddr)
      ⟨0, some (flagsOf a0 b0 a1 b1 a2 b2 a3 b3),
        .xyz (matmulOut o (adcsOf a0 b0 a1 b1 a2 b2 a3 b3) 0) (matmulOut o (adcsOf a0 b0 a1 b1 a2 b2 a3 b3) 1)
          (matmulOut o (adcsOf a0 b0 a1 b1 a2 b2 a3 b3) 2) (matmulOut o (adcsOf a0 b0 a1 b1 a2 b2 a3 b3) 3)⟩) := by
  rw [exec_rdXyz]
  refine launch_readAllPairs hb rfl ho ha fun u h => ?_
  obtain ⟨v, w, hv, hw, hl, hx, hy, hz, hlux⟩ := h.matmul_leaves o
  simp [rdXyzTail, hv, hw, hl.crcerrAll_ok, hx, hy, hz, hlux, respond_ran hl.idle]

/-- The response of RD_XY: the chromaticity, or DomainError where there is none (45_operations R67). -/
def xyResponse (flags : BitVec 4) : Option (NumQ × NumQ) → Response
  | none => ⟨6, some flags, .none⟩
  | some (cx, cy) => ⟨0, some flags, .xy cx cy⟩

/-- RD_XY answers the chromaticity of X, Y and Z, or that there is none (45_operations R67). -/
theorem exec_rdXy_answered {o : Mat3 NumQ} (hb : s.busy = false) (ho : s.cfg.coeffs = some o)
    (ha : s.answers [a0, b0, a1, b1, a2, b2, a3, b3]) :
    exec .rdXy s = .next (s.afterResponse (allReads s.cfg.devAddr)
      (xyResponse (flagsOf a0 b0 a1 b1 a2 b2 a3 b3)
        (chromaticity (matmulOut o (adcsOf a0 b0 a1 b1 a2 b2 a3 b3) 0) (matmulOut o (adcsOf a0 b0 a1 b1 a2 b2 a3 b3) 1)
          (matmulOut o (adcsOf a0 b0 a1 b1 a2 b2 a3 b3) 2)))) := by
  rw [exec_rdXy]
  refine launch_readAllPairs hb rfl ho ha fun u h => ?_
  obtain ⟨v, w, hv, hw, hl, hx, hy, hz, -⟩ := h.matmul_leaves o
  cases hc : chromaticity (matmulOut o (adcsOf a0 b0 a1 b1 a2 b2 a3 b3) 0)
      (matmulOut o (adcsOf a0 b0 a1 b1 a2 b2 a3 b3) 1) (matmulOut o (adcsOf a0 b0 a1 b1 a2 b2 a3 b3) 2) with
  | none =>
    simp [rdXyTail, xyconv, hv, hw, hx, hy, hz, hc, hl.crcerrAll_ok, raise_ran hl.idle, xyResponse, Status.code]
  | some c =>
    have hl' := hl.upd (fun r => { r with cx := some c.1, cy := some c.2 }) rfl rfl rfl
    simp [rdXyTail, xyconv, hv, hw, hx, hy, hz, hc, hl'.crcerrAll_ok, respond_ran hl'.idle, xyResponse]

/-- RD_RGB answers the colour of X, Y and Z, whose linear colour is `q` (45_operations R69). -/
theorem exec_rdRgb_answered {c : RgbCfg} {q : NumQ × NumQ × NumQ} (hb : s.busy = false) (hc : s.cfg.rgb = some c)
    (ha : s.answers [a0, b0, a1, b1, a2, b2, a3, b3])
    (hq : q = linearRgb c (matmulOut c.coeffs (adcsOf a0 b0 a1 b1 a2 b2 a3 b3) 0)
      (matmulOut c.coeffs (adcsOf a0 b0 a1 b1 a2 b2 a3 b3) 1) (matmulOut c.coeffs (adcsOf a0 b0 a1 b1 a2 b2 a3 b3) 2)) :
    exec .rdRgb s = .next (s.afterResponse (allReads s.cfg.devAddr)
      ⟨0, some (flagsOf a0 b0 a1 b1 a2 b2 a3 b3),
        .rgb (finishColour c q.1) (finishColour c q.2.1) (finishColour c q.2.2)⟩) := by
  rw [exec_rdRgb]
  refine launch_readAllPairs hb rfl hc ha fun u h => ?_
  obtain ⟨v, w, hv, hw, hl, hx, hy, hz, -⟩ := h.matmul_leaves c.coeffs
  have hl' := hl.upd (fun k => { k with
    r := some (finishColour c q.1), g := some (finishColour c q.2.1), b := some (finishColour c q.2.2) }) rfl rfl rfl
  simp [rdRgbTail, xyz2rgb, hv, hw, hx, hy, hz, ← hq, hl'.crcerrAll_ok, respond_ran hl'.idle]

end FourPairs

/-! ### The operations of one pair and of a threshold -/

/-- RD_CH answers the fields of its channel's reading (45_operations R63). -/
theorem exec_rdCh_answered {s : State} {sel : BitVec 4} {a b : Word} (hb : s.busy = false)
    (hi : (Instr.rdCh sel).WellFormed) (ha : s.answers [a, b]) :
    exec (.rdCh sel) s = .next (s.afterResponse (pairReads s.cfg.devAddr (chanOf sel))
      ⟨0, some (flagBit (chanOf sel) a b),
        .reading (rdExp (reassemble a b)) (rdMant (reassemble a b)) (rdCnt (reassemble a b)) (rdCrc (reassemble a b))
          (pairCrc a b)⟩) := by
  obtain ⟨u, hu, hidle, hrd, hcrcc, hcrcerr⟩ :=
    readPair_leaves (s := s.accept (encode (.rdCh sel))) (chanOf sel) ha
  rw [exec_rdCh, launch_runs (conf := s.cfg.plain) _ hb hi rfl, hu, run_ok_bind]
  simp only [rdChTail, crcerrBit_ok hcrcerr, readingPayload, hrd, hcrcc, need_some, run_ok_bind]
  rw [respond_ran (s := s) hidle]
  rfl

/-- RD_LUX answers the Lux value of channel 1 (45_operations R68). -/
theorem exec_rdLux_answered {s : State} {a b : Word} (hb : s.busy = false) (ha : s.answers [a, b]) :
    exec .rdLux s = .next (s.afterResponse (pairReads s.cfg.devAddr 1)
      ⟨0, some (flagBit 1 a b), .lux (luxOf (adcOfReading (reassemble a b)))⟩) := by
  obtain ⟨u, hu, hidle, hrd, -, hcrcerr⟩ := readPair_leaves (s := s.accept (encode .rdLux)) 1 ha
  rw [exec_rdLux, launch_runs (conf := s.cfg.plain) _ hb rfl rfl, hu, run_ok_bind]
  simp only [rdLuxTail, normAdc, luxsc, crcerrBit, hrd, hcrcerr, need_some, run_ok_bind, upd_work, Quad.get_set_same]
  exact congrArg outcome (respond_ran (s := s) (by exact hidle) _ _)

/-- RD_THR answers the fields and the value of the word read (45_operations R70). -/
theorem exec_rdThr_answered {s : State} {sel : BitVec 4} {w : Word} (hb : s.busy = false)
    (hi : (Instr.rdThr sel).WellFormed) (ha : s.answers [w]) :
    exec (.rdThr sel) s = .next (s.afterResponse [.read s.cfg.devAddr (cmdThreshold sel)]
      ⟨0, none, .threshold (thrExpField w) (thrMantField w) (thradc (thrMantField w) (thrExpField w))⟩) := by
  have hw : linkWord ((s.accept (encode (.rdThr sel))).linkEvent 0) = some w := ha 0 (by simp)
  rw [exec_rdThr, launch_runs (conf := s.cfg.plain) _ hb hi rfl]
  simp only [readThreshold, memRead, transact_ok _ hw, run_ok_bind, rdThrTail, upd_work, need_some, thrdec]
  exact congrArg outcome (respond_ran (s := s) (by rfl) _ _)

/-- WR_THR answers without a payload when its write is answered Ok (45_operations R71). -/
theorem exec_wrThr_answered {s : State} {sel : BitVec 4} {mant : BitVec 12} {exp : BitVec 4} (hb : s.busy = false)
    (hi : (Instr.wrThr sel mant exp).WellFormed) (hok : s.okUpTo 1) :
    exec (.wrThr sel mant exp) s = .next (s.afterResponse [.write s.cfg.devAddr (cmdThreshold sel) (exp ++ mant)]
      ⟨0, none, .none⟩) := by
  obtain ⟨u, hu, hidle⟩ := (writeThreshold_runs sel mant exp (s.accept (encode (.wrThr sel mant exp)))).1 hok
  rw [exec_wrThr, launch_runs (conf := s.cfg.plain) _ hb hi rfl, hu, run_ok_bind, respond_ran (s := s) hidle]
  rfl

/-! ### The response is a function of the configuration and the words -/

theorem okUpTo_of_answers {s : State} {ws : List Word} (h : s.answers ws) : s.okUpTo ws.length := by
  intro n hn
  rw [h n hn, List.getElem?_eq_getElem hn]
  rfl

theorem eq_four_pairs_of_length {ws : List Word} (h : ws.length = 8) :
    ∃ a0 b0 a1 b1 a2 b2 a3 b3, ws = [a0, b0, a1, b1, a2, b2, a3, b3] := by
  match ws, h with
  | [a0, b0, a1, b1, a2, b2, a3, b3], _ => exact ⟨a0, b0, a1, b1, a2, b2, a3, b3, rfl⟩

/-- `r` is the response to `i` in every idle block under the configuration `c` whose link answers `ws`. -/
def Responds (c : Cfg) (i : Instr) (ws : List Word) (r : Response) : Prop :=
  ∀ s : State, s.busy = false → s.cfg = c → s.answers ws →
    exec i s = .next (s.afterResponse (transactionsOf c.devAddr i) r)

/-- Every operation has one response for a configuration and the words of its transactions (10_state R10). -/
theorem exists_responds {i : Instr} {c : Cfg} {ws : List Word} (hi : i.WellFormed) (hc : configuredFor c i = true)
    (hlen : ws.length = (transactionsOf c.devAddr i).length) : ∃ r, Responds c i ws r := by
  cases i with
  | rdCh sel =>
    obtain ⟨a, b, rfl⟩ := List.length_eq_two.mp hlen
    exact ⟨_, fun s hb hs ha => hs ▸ exec_rdCh_answered hb hi ha⟩
  | rdAll =>
    obtain ⟨a0, b0, a1, b1, a2, b2, a3, b3, rfl⟩ := eq_four_pairs_of_length hlen
    exact ⟨_, fun s hb hs ha => hs ▸ exec_rdAll_answered hb ha⟩
  | rdAdc =>
    obtain ⟨a0, b0, a1, b1, a2, b2, a3, b3, rfl⟩ := eq_four_pairs_of_length hlen
    exact ⟨_, fun s hb hs ha => hs ▸ exec_rdAdc_answered hb ha⟩
  | rdXyz =>
    obtain ⟨o, ho⟩ := Option.isSome_iff_exists.mp hc
    obtain ⟨a0, b0, a1, b1, a2, b2, a3, b3, rfl⟩ := eq_four_pairs_of_length hlen
    exact ⟨_, fun s hb hs ha => hs ▸ exec_rdXyz_answered hb (hs ▸ ho) ha⟩
  | rdXy =>
    obtain ⟨o, ho⟩ := Option.isSome_iff_exists.mp hc
    obtain ⟨a0, b0, a1, b1, a2, b2, a3, b3, rfl⟩ := eq_four_pairs_of_length hlen
    exact ⟨_, fun s hb hs ha => hs ▸ exec_rdXy_answered hb (hs ▸ ho) ha⟩
  | rdLux =>
    obtain ⟨a, b, rfl⟩ := List.length_eq_two.mp hlen
    exact ⟨_, fun s hb hs ha => hs ▸ exec_rdLux_answered hb ha⟩
  | rdRgb =>
    obtain ⟨r, hr⟩ := Option.isSome_iff_exists.mp hc
    obtain ⟨a0, b0, a1, b1, a2, b2, a3, b3, rfl⟩ := eq_four_pairs_of_length hlen
    exact ⟨_, fun s hb hs ha => hs ▸ exec_rdRgb_answered hb (hs ▸ hr) ha rfl⟩
  | rdThr sel =>
    obtain ⟨w, rfl⟩ := List.length_eq_one_iff.mp hlen
    exact ⟨_, fun s hb hs ha => hs ▸ exec_rdThr_answered hb hi ha⟩
  | wrThr sel mant exp =>
    exact ⟨_, fun s hb hs ha => hs ▸
      exec_wrThr_answered hb hi (okUpTo_mono hlen.ge (okUpTo_of_answers ha))⟩

/-! ### All the ways in which an operation ends -/

/-- The next `n` transactions are answered Ok, or one of them is the first that is not. -/
theorem okUpTo_or_first_failure (s : State) (n : Nat) :
    s.okUpTo n ∨ ∃ m < n, s.okUpTo m ∧ linkWord (s.linkEvent m) = none := by
  induction n with
  | zero => exact .inl fun m hm => absurd hm (Nat.not_lt_zero m)
  | succ n ih =>
    rcases ih with hok | ⟨m, hm, hfail⟩
    · cases hw : linkWord (s.linkEvent n) with
      | none => exact .inr ⟨n, n.lt_succ_self, hok, hw⟩
      | some w =>
        refine .inl fun m hm => ?_
        rcases Nat.lt_succ_iff_lt_or_eq.mp hm with hlt | rfl
        · exact hok m hlt
        · simp [hw]
    · exact .inr ⟨m, hm.trans n.lt_succ_self, hfail⟩

/-- What an event that is no Ok answer makes of an operation, the same in every state: it ends with responses `rs` and no
further transaction, or it is refused as landing on a busy block. -/
theorem outcome_stopAt_cases (e : LinkEvent) :
    (∃ rs : List Response, ∀ s, ∃ s', outcome (.error (stopAt e s)) = .next s' ∧ s'.issued = s.issued ∧
        s'.delivered = s.delivered ++ rs) ∨
      (∃ why, why ≠ .illFormedConfig ∧ ∀ s, outcome (.error (stopAt e s)) = .refused why) := by
  cases e with
  | answer a =>
    cases a with
    | ok b0 b1 => exact .inl ⟨[], fun s => ⟨s, rfl, rfl, (List.append_nil _).symm⟩⟩
    | err k => exact .inl ⟨[errorResponse k], fun s => ⟨_, rfl, rfl, rfl⟩⟩
  | host e =>
    cases e with
    | request w => exact .inr ⟨.requestWhileBusy, by decide, fun _ => rfl⟩
    | configure c => exact .inr ⟨.configureWhileBusy, by decide, fun _ => rfl⟩
    | reset => exact .inl ⟨[], fun s => ⟨s.resetNow, rfl, rfl, (List.append_nil _).symm⟩⟩

/-- An operation whose configuration is not well formed in what it reads is refused (10_state R11). -/
theorem exec_unconfigured {i : Instr} {s : State} (hb : s.busy = false) (hi : i.WellFormed)
    (hc : configuredFor s.cfg i = false) : exec i s = .refused .illFormedConfig := by
  cases i with
  | rdXyz => exact (exec_rdXyz s).trans (launch_unconfigured _ hb hi (by simpa [configuredFor] using hc))
  | rdXy => exact (exec_rdXy s).trans (launch_unconfigured _ hb hi (by simpa [configuredFor] using hc))
  | rdRgb => exact (exec_rdRgb s).trans (launch_unconfigured _ hb hi (by simpa [configuredFor] using hc))
  | _ => exact absurd hc (by simp [configuredFor])

/-- The link answers every transaction of a legal, configured operation Ok, with words that have a response, or there is a
first transaction that it does not. -/
theorem responds_or_first_failure {i : Instr} {s : State} (hi : i.WellFormed) (hc : configuredFor s.cfg i = true) :
    (∃ ws r, ws.length = (transactionsOf s.cfg.devAddr i).length ∧ s.answers ws ∧ Responds s.cfg i ws r) ∨
      (∃ n < (transactionsOf s.cfg.devAddr i).length, s.okUpTo n ∧ linkWord (s.linkEvent n) = none) := by
  rcases okUpTo_or_first_failure s (transactionsOf s.cfg.devAddr i).length with hok | hfail
  · obtain ⟨ws, hlen, ha⟩ := answers_of_okUpTo hok
    obtain ⟨r, hr⟩ := exists_responds hi hc hlen
    exact .inl ⟨ws, r, hlen, ha, hr⟩
  · exact .inr hfail

/-- The outcomes an operation can have, and when. -/
theorem exec_cases (i : Instr) (s : State) :
    (s.busy = true ∧ exec i s = .refused .requestWhileBusy) ∨
      (s.busy = false ∧ ∃ v, i.violation = some v ∧ exec i s = .fault (.contractViolation v)) ∨
      (s.busy = false ∧ i.WellFormed ∧ configuredFor s.cfg i = false ∧ exec i s = .refused .illFormedConfig) ∨
      (s.busy = false ∧ i.WellFormed ∧ configuredFor s.cfg i = true ∧
        ((∃ s', exec i s = .next s') ∨ ∃ why, why ≠ .illFormedConfig ∧ exec i s = .refused why)) := by
  cases hb : s.busy with
  | true => exact .inl ⟨rfl, exec_busy hb⟩
  | false =>
    cases hv : i.violation with
    | some v => exact .inr (.inl ⟨rfl, v, rfl, exec_violation hb hv⟩)
    | none =>
      cases hc : configuredFor s.cfg i with
      | false => exact .inr (.inr (.inl ⟨rfl, hv, rfl, exec_unconfigured hb hv hc⟩))
      | true =>
        refine .inr (.inr (.inr ⟨rfl, hv, rfl, ?_⟩))
        rcases responds_or_first_failure hv hc with ⟨ws, r, -, ha, hr⟩ | ⟨n, hn, hok, hfail⟩
        · exact .inl ⟨_, hr s hb rfl ha⟩
        · rw [exec_stops hb hv hc hn hok hfail]
          rcases outcome_stopAt_cases (s.linkEvent n) with ⟨rs, hends⟩ | ⟨why, hwhy, href⟩
          · obtain ⟨s', hs', -⟩ := hends (s.ran ((transactionsOf s.cfg.devAddr i).take (n + 1)))
            exact .inl ⟨s', hs'⟩
          · exact .inr ⟨why, hwhy, href _⟩

/-! ### Configuration (10_state R11) -/

/-- Exactly when an operation is refused for its configuration. -/
theorem exec_eq_illFormedConfig {i : Instr} {s : State} :
    exec i s = .refused .illFormedConfig ↔ s.busy = false ∧ i.WellFormed ∧ configuredFor s.cfg i = false := by
  refine ⟨fun h => ?_, fun ⟨hb, hi, hc⟩ => exec_unconfigured hb hi hc⟩
  rcases exec_cases i s with ⟨-, he⟩ | ⟨-, v, -, he⟩ | ⟨hb, hi, hc, -⟩ | ⟨-, -, -, ⟨s', he⟩ | ⟨why, hwhy, he⟩⟩
  · simp [he] at h
  · simp [he] at h
  · exact ⟨hb, hi, hc⟩
  · simp [he] at h
  · exact absurd (by simpa [he] using h) hwhy

/-- M is well formed exactly when its nine OPEN entries hold values. -/
theorem coeffs_isSome_iff {c : Cfg} : c.coeffs.isSome = true ↔ ∃ o : Mat3 NumQ, c.m = Mat3.values o := by
  simp only [Option.isSome_iff_exists, Cfg.coeffs, allEntries_eq_some]

/-- CFG is well formed for RD_RGB exactly when M, MRGB, WX, WY and POW512 hold values, WX and WY not 0 (log 7). -/
theorem rgb_isSome_iff {c : Cfg} : c.rgb.isSome = true ↔
    ∃ (o g : Mat3 NumQ) (wx wy : NumQ) (p : Nat), c.m = Mat3.values o ∧ c.mrgb = Mat3.values g ∧ c.wx = some wx ∧
      c.wy = some wy ∧ c.pow512 = some p ∧ wx ≠ 0 ∧ wy ≠ 0 := by
  rw [Option.isSome_iff_exists]
  constructor
  · rintro ⟨r, hr⟩
    obtain ⟨hm, hg, hx, hy, hp, -, hx0, hy0⟩ := rgb_eq_some.mp hr
    exact ⟨r.coeffs, r.mrgb, r.wx, r.wy, r.pow512, hm, hg, hx, hy, hp, hx0, hy0⟩
  · rintro ⟨o, g, wx, wy, p, hm, hg, hx, hy, hp, hx0, hy0⟩
    exact ⟨⟨o, g, wx, wy, c.compandFn, p⟩, rgb_eq_some.mpr ⟨hm, hg, hx, hy, hp, rfl, hx0, hy0⟩⟩

/-- Settles O14: an operation is refused so exactly when its configuration is not well formed, and what that means for M
and for RD_RGB. -/
theorem illFormedConfigurationsAreRefused : Obligations.IllFormedConfigurationsAreRefused := by
  unfold Obligations.IllFormedConfigurationsAreRefused
  refine ⟨fun i s hi hb => ?_, fun s hb => ?_, fun i s hxyz hxy hrgb h => ?_⟩
  · rw [exec_eq_illFormedConfig, ← coeffs_isSome_iff, Bool.not_eq_true]
    rcases hi with rfl | rfl
    · exact ⟨fun h => h.2.2, fun h => ⟨hb, rfl, h⟩⟩
    · exact ⟨fun h => h.2.2, fun h => ⟨hb, rfl, h⟩⟩
  · rw [exec_eq_illFormedConfig, ← rgb_isSome_iff, Bool.not_eq_true]
    exact ⟨fun h => h.2.2, fun h => ⟨hb, rfl, h⟩⟩
  · obtain ⟨-, -, hc⟩ := exec_eq_illFormedConfig.mp h
    cases i with
    | rdXyz => exact hxyz rfl
    | rdXy => exact hxy rfl
    | rdRgb => exact hrgb rfl
    | _ => simp [configuredFor] at hc

/-! ### What a response depends on (10_state R10) -/

theorem okUpTo_congr {s t : State} {n : Nat} (h : ∀ m < n, s.linkEvent m = t.linkEvent m) (hok : s.okUpTo n) :
    t.okUpTo n :=
  fun m hm => h m hm ▸ hok m hm

theorem answers_congr {s t : State} {ws : List Word} (h : ∀ m < ws.length, s.linkEvent m = t.linkEvent m)
    (ha : s.answers ws) : t.answers ws :=
  fun m hm => h m hm ▸ ha m hm

/-- Settles O51: two such blocks meet the same words, for which the operation has one response, or the same first failure,
which ends every operation in the same way. -/
theorem responseDependsOnRequestConfigurationAndAnswersOnly :
    Obligations.ResponseDependsOnRequestConfigurationAndAnswersOnly := by
  unfold Obligations.ResponseDependsOnRequestConfigurationAndAnswersOnly
  intro i s t s' hbs hbt hcfg hlink hs'
  rcases exec_cases i s with ⟨-, he⟩ | ⟨-, v, -, he⟩ | ⟨-, -, -, he⟩ | ⟨-, hi, hc, -⟩
  · simp [he] at hs'
  · simp [he] at hs'
  · simp [he] at hs'
  rcases responds_or_first_failure hi hc with ⟨ws, r, hlen, ha, hr⟩ | ⟨n, hn, hok, hfail⟩
  · obtain rfl : s.afterResponse (transactionsOf s.cfg.devAddr i) r = s' := by
      simpa [hr s hbs rfl ha] using hs'
    exact ⟨_, [r], _, hr t hbt hcfg.symm (answers_congr (hlen ▸ hlink) ha), rfl, rfl, rfl, rfl⟩
  · have hokt : t.okUpTo n := okUpTo_congr (fun m hm => hlink m (hm.trans hn)) hok
    have hs := exec_stops hbs hi hc hn hok hfail
    have ht := exec_stops (i := i) (s := t) (n := n) hbt hi (hcfg ▸ hc) (hcfg ▸ hn) hokt (hlink n hn ▸ hfail)
    rw [← hcfg, ← hlink n hn] at ht
    rcases outcome_stopAt_cases (s.linkEvent n) with ⟨rs, hends⟩ | ⟨why, -, href⟩
    · obtain ⟨u, hu, hui, hud⟩ := hends (s.ran ((transactionsOf s.cfg.devAddr i).take (n + 1)))
      obtain ⟨v, hv, hvi, hvd⟩ := hends (t.ran ((transactionsOf s.cfg.devAddr i).take (n + 1)))
      obtain rfl : u = s' := by simpa [hs, hu] using hs'
      exact ⟨_, rs, v, ht.trans hv, hui, hvi, hud, hvd⟩
    · simp [hs, href] at hs'

/-! ### No unwritten register is read (10_state R17) -/

theorem exec_ne_unwrittenRegister (i : Instr) (s : State) (reg : WReg) :
    exec i s ≠ .fault (.unwrittenRegister reg) := by
  rcases exec_cases i s with ⟨-, he⟩ | ⟨-, v, -, he⟩ | ⟨-, -, -, he⟩ | ⟨-, -, -, ⟨s', he⟩ | ⟨why, -, he⟩⟩
  all_goals simp [he]

/-! ### The step by the event presented -/

theorem step_of_done {s : State} {o : Host.Outcome State Fault Refusal} (h : fetch s = .done o) : step s = o := by
  simp [step, h]

theorem step_of_run {s s' : State} {i : Instr} (h : fetch s = .run i s') : step s = exec i s' := by
  simp [step, h]

theorem step_of_nothing {s : State} (h : s.host = []) : step s = .next s :=
  step_of_done (by simp [fetch, h])

theorem step_of_configure {s : State} {c : Cfg} {rest : List HostEvent} (h : s.host = .configure c :: rest)
    (hb : s.busy = false) : step s = .next { s with cfg := c, host := rest } :=
  step_of_done (by simp [fetch, h, hb])

theorem step_ne_unwrittenRegister (s : State) (reg : WReg) : step s ≠ .fault (.unwrittenRegister reg) := by
  rcases fetch_cases s with ⟨-, h⟩ | ⟨w, rest, -, ⟨-, h⟩ | ⟨-, v, -, h⟩ | ⟨-, i, -, h⟩⟩ |
    ⟨c, rest, -, ⟨-, h⟩ | ⟨-, h⟩⟩ | ⟨rest, -, h⟩
  · simp [step_of_done h]
  · simp [step_of_done h]
  · simp [step_of_done h]
  · rw [step_of_run h]
    exact exec_ne_unwrittenRegister i _ reg
  · simp [step_of_done h]
  · simp [step_of_done h]
  · simp [step_of_done h]

/-- Settles O53: no case of `exec_cases` and `fetch_cases` is that fault. -/
theorem noUnwrittenRegisterIsEverRead : Obligations.NoUnwrittenRegisterIsEverRead :=
  ⟨step_ne_unwrittenRegister, exec_ne_unwrittenRegister, fun reg => need_none reg⟩

/-- Settles O8. -/
theorem stepsWithoutARequest : Obligations.StepsWithoutARequest :=
  ⟨fun _ h => step_of_nothing h, fun _ _ _ h hb => step_of_configure h hb⟩

/-! ### Reset (10_state R16) -/

/-- The hardwired entries of M (42_color_pipeline R48): the Lux column and the channel-3 row. -/
theorem calM_hardwired (o : Mat3 NumQ) :
    calM o 0 3 = 0 ∧ calM o 1 3 = 43 / 20000 ∧ calM o 2 3 = 0 ∧ ∀ j, calM o 3 j = 0 :=
  ⟨rfl, rfl, rfl, fun j => by fin_cases j <;> rfl⟩

/-- The state after reset is idle and empty. -/
theorem reset_idle : State.reset.Idle := ⟨rfl, rfl, rfl, rfl⟩

/-- Settles O10. -/
theorem resetLeavesTheBlockIdleAndEmpty : Obligations.ResetLeavesTheBlockIdleAndEmpty := by
  unfold Obligations.ResetLeavesTheBlockIdleAndEmpty
  obtain ⟨hbusy, hop, hseq, hwork⟩ := reset_idle
  exact ⟨hbusy, hop, hseq, hwork, rfl, rfl, calM_hardwired⟩

/-- Settles O55: an idle block that has issued and delivered nothing meets the invariant. -/
theorem resetMeetsTheInvariant : Obligations.ResetMeetsTheInvariant := by
  unfold Obligations.ResetMeetsTheInvariant
  have hissued : State.reset.issued = [] := rfl
  have hdelivered : State.reset.delivered = [] := rfl
  exact ⟨⟨reset_idle, by simp [hissued], by simp [hdelivered]⟩, hissued, hdelivered⟩

end Sys2Proof.Machine

/-! The transactions of the link (20_memory): what a read and a write leave, and the bytes of a word. -/

namespace Sys2Proof.Machine

/-! ### The bytes of a word (20_memory R21) -/

theorem wordOfBytes_toNat (b0 b1 : Byte) : (wordOfBytes b0 b1).toNat = b0.toNat * 256 + b1.toNat := by
  have hlow : b1.toNat < 2 ^ 8 := b1.isLt
  rw [wordOfBytes, BitVec.toNat_append, ← Nat.shiftLeft_add_eq_or_of_lt hlow, Nat.shiftLeft_eq]

/-- The bytes in which a word is sent (92 D25) are those from which it is put together again. -/
theorem wordOfBytes_bytes (w : Word) : wordOfBytes (w.extractLsb' 8 8) (w.extractLsb' 0 8) = w := by
  rw [wordOfBytes, BitVec.extractLsb'_append_extractLsb'_eq_extractLsb' (show 8 = 0 + 8 from rfl)]
  exact BitVec.extractLsb'_eq_self

/-! ### A read and a write -/

/-- A read answered Ok goes on with the word of its bytes (20_memory R20, R21). -/
theorem memRead_ok {s : State} {b0 b1 : Byte} (cmd : Cmd) (h : s.linkEvent 0 = .answer (.ok b0 b1)) :
    memRead cmd s = .ok (wordOfBytes b0 b1, (s.issue (.read s.cfg.devAddr cmd)).countOk) :=
  transact_ok _ (by rw [h]; rfl)

/-- A write answered Ok goes on; the bytes of the answer are ignored (20_memory R26; log 21). -/
theorem memWrite_ok {s : State} {b0 b1 : Byte} (cmd : Cmd) (w : Word) (h : s.linkEvent 0 = .answer (.ok b0 b1)) :
    memWrite cmd w s = .ok (s.issue (.write s.cfg.devAddr cmd w)).countOk := by
  have hw : linkWord (s.linkEvent 0) = some (wordOfBytes b0 b1) := by rw [h]; rfl
  rw [memWrite, transact_ok _ hw, run_ok_bind]

/-- A write not answered Ok stops the operation. -/
theorem memWrite_stop {s : State} (cmd : Cmd) (w : Word) (h : linkWord (s.linkEvent 0) = none) :
    memWrite cmd w s = .error (stopAt (s.linkEvent 0) (s.issue (.write s.cfg.devAddr cmd w))) := by
  rw [memWrite, transact_stop _ h, run_error_bind]

/-- Settles O16: the word read is the two bytes put together, high byte first. -/
theorem readTransactionCombinesBytesHighFirst : Obligations.ReadTransactionCombinesBytesHighFirst := by
  unfold Obligations.ReadTransactionCombinesBytesHighFirst
  intro cmd s b0 b1 h
  exact ⟨wordOfBytes b0 b1, wordOfBytes_toNat b0 b1, memRead_ok cmd h⟩

/-- Settles O17: the write by its answer, and the word put together again from the two bytes sent. -/
theorem writeTransactionCarriesTheWord : Obligations.WriteTransactionCarriesTheWord := by
  unfold Obligations.WriteTransactionCarriesTheWord
  intro cmd w s
  refine ⟨fun b0 b1 h => memWrite_ok cmd w h, fun k h => ?_, w.extractLsb' 8 8, w.extractLsb' 0 8, rfl, ?_⟩
  · have hstop : linkWord (s.linkEvent 0) = none := by rw [h]; rfl
    rw [memWrite_stop cmd w hstop, h]
    rfl
  · rw [← wordOfBytes_toNat, wordOfBytes_bytes]

end Sys2Proof.Machine

/-! The encodings (30_encoding): the request word and its operation, the rows of the operation map, the command codes and
the numbers of STATUS. -/

namespace Sys2Proof

/-! ### Legal operands and legal words (30_encoding R37) -/

@[simp] theorem wellFormed_rdCh {sel : BitVec 4} : (Instr.rdCh sel).WellFormed ↔ sel.toNat ≤ 3 := by
  simp [Instr.WellFormed, Instr.violation]

@[simp] theorem wellFormed_rdThr {sel : BitVec 4} : (Instr.rdThr sel).WellFormed ↔ sel.toNat ≤ 1 := by
  simp [Instr.WellFormed, Instr.violation]

@[simp] theorem wellFormed_wrThr {sel : BitVec 4} {mant : BitVec 12} {exp : BitVec 4} :
    (Instr.wrThr sel mant exp).WellFormed ↔ sel.toNat ≤ 1 := by
  simp [Instr.WellFormed, Instr.violation]

/-- R37 in the fields of the word. -/
theorem legalRequest_iff {w : Req24} : Machine.legalRequest w ↔
    (reqOpsel w).toNat ≤ 8 ∧
      (if (reqOpsel w).toNat = 0 then (reqSel w).toNat ≤ 3
        else if (reqOpsel w).toNat = 7 ∨ (reqOpsel w).toNat = 8 then (reqSel w).toNat ≤ 1 else (reqSel w).toNat = 0) ∧
      ((reqOpsel w).toNat ≠ 8 → (reqData w).toNat = 0) := by
  simp only [Machine.legalRequest, reqOpsel_toNat, reqSel_toNat, reqData_toNat]

/-! ### The decoder and the encoder (30_encoding R35, R36, R39) -/

/-- The decoder reads from an encoded word the instruction that was encoded. -/
theorem decode_encode {i : Instr} (hi : i.WellFormed) : decode (encode i) = .ok i := by
  cases i with
  | rdCh sel => simpa [decode, encode, reqOpsel_reqWord, reqSel_reqWord, reqData_reqWord, checked_eq_ok] using hi
  | rdThr sel => simpa [decode, encode, reqOpsel_reqWord, reqSel_reqWord, reqData_reqWord, checked_eq_ok] using hi
  | wrThr sel mant exp =>
    simpa [decode, encode, reqOpsel_reqWord, reqSel_reqWord, reqData_reqWord, thrExpField_append, thrMantField_append,
      checked_eq_ok] using hi
  | _ => decide

/-- An accepted operation without operands stands in a legal word. -/
theorem legalRequest_of_plainOp {w : Req24} {i j : Instr} (hlow : 1 ≤ (reqOpsel w).toNat)
    (hhigh : (reqOpsel w).toNat ≤ 6) (h : plainOp i w = .ok j) : Machine.legalRequest w := by
  obtain ⟨-, -, hsel, hdata⟩ := plainOp_eq_ok.mp h
  rw [legalRequest_iff, if_neg (by omega), if_neg (by omega)]
  exact ⟨by omega, by simp [hsel], fun _ => by simp [hdata]⟩

/-- The decoder accepts legal words only. -/
theorem legalRequest_of_decode {w : Req24} {i : Instr} (h : decode w = .ok i) : Machine.legalRequest w := by
  unfold decode at h
  split at h
  case h_1 hop =>
    obtain ⟨-, hsel, hdata⟩ := checked_eq_ok.mp h
    simpa [legalRequest_iff, hop, BitVec.toNat_eq] using And.intro hsel hdata
  case h_8 hop =>
    obtain ⟨-, hsel, hdata⟩ := checked_eq_ok.mp h
    simpa [legalRequest_iff, hop, BitVec.toNat_eq] using And.intro hsel hdata
  case h_9 hop =>
    obtain ⟨-, hsel, -⟩ := checked_eq_ok.mp h
    simpa [legalRequest_iff, hop] using hsel
  case h_10 => exact absurd h (by simp)
  all_goals exact legalRequest_of_plainOp (by omega) (by omega) h

/-- A word is put together from the values of its fields. -/
theorem reqWord_of_fields {w : Req24} {o s : BitVec 4} {d : Word} (ho : (reqOpsel w).toNat = o.toNat)
    (hs : (reqSel w).toNat = s.toNat) (hd : (reqData w).toNat = d.toNat) : reqWord o s d = w := by
  rw [← BitVec.eq_of_toNat_eq ho, ← BitVec.eq_of_toNat_eq hs, ← BitVec.eq_of_toNat_eq hd, reqWord_fields]

/-- Every legal word is the encoding of a well-formed instruction. -/
theorem exists_encode_of_legalRequest {w : Req24} (h : Machine.legalRequest w) :
    ∃ i : Instr, i.WellFormed ∧ encode i = w := by
  obtain ⟨hop, hsel, hdata⟩ := legalRequest_iff.mp h
  interval_cases ho : (reqOpsel w).toNat
  · exact ⟨.rdCh (reqSel w), wellFormed_rdCh.mpr hsel, reqWord_of_fields ho rfl (hdata (by decide))⟩
  · exact ⟨.rdAll, rfl, reqWord_of_fields ho hsel (hdata (by decide))⟩
  · exact ⟨.rdAdc, rfl, reqWord_of_fields ho hsel (hdata (by decide))⟩
  · exact ⟨.rdXyz, rfl, reqWord_of_fields ho hsel (hdata (by decide))⟩
  · exact ⟨.rdXy, rfl, reqWord_of_fields ho hsel (hdata (by decide))⟩
  · exact ⟨.rdLux, rfl, reqWord_of_fields ho hsel (hdata (by decide))⟩
  · exact ⟨.rdRgb, rfl, reqWord_of_fields ho hsel (hdata (by decide))⟩
  · exact ⟨.rdThr (reqSel w), wellFormed_rdThr.mpr hsel, reqWord_of_fields ho rfl (hdata (by decide))⟩
  · exact ⟨.wrThr (reqSel w) (thrMantField (reqData w)) (thrExpField (reqData w)), wellFormed_wrThr.mpr hsel,
      reqWord_of_fields ho rfl (by rw [thrFields_append])⟩

/-- What the decoder accepts, and as what: the encodings of the well-formed instructions. -/
theorem decode_eq_ok {w : Req24} {i : Instr} : decode w = .ok i ↔ i.WellFormed ∧ encode i = w := by
  constructor
  · intro h
    obtain ⟨j, hj, rfl⟩ := exists_encode_of_legalRequest (legalRequest_of_decode h)
    obtain rfl : j = i := by simpa [decode_encode hj] using h
    exact ⟨hj, rfl⟩
  · rintro ⟨hi, rfl⟩
    exact decode_encode hi

/-- Settles O1: the fields that the encoder puts together are those that the decoder takes out. -/
theorem decodeOfEncodeReturnsTheInstruction : Obligations.DecodeOfEncodeReturnsTheInstruction :=
  fun _ hi => decode_encode hi

/-- Settles O2. -/
theorem encodeOfDecodeReturnsTheWord : Obligations.EncodeOfDecodeReturnsTheWord :=
  fun _ _ h => decode_eq_ok.mp h

/-- Settles O3: an accepted word is legal, and a legal word is an encoding, which the decoder accepts. -/
theorem requestsAreAcceptedExactlyWhenLegal : Obligations.RequestsAreAcceptedExactlyWhenLegal := by
  unfold Obligations.RequestsAreAcceptedExactlyWhenLegal
  refine fun w => ⟨fun ⟨_, h⟩ => legalRequest_of_decode h, fun h => ?_⟩
  obtain ⟨i, hi⟩ := exists_encode_of_legalRequest h
  exact ⟨i, decode_eq_ok.mpr hi⟩

/-- Settles O5. -/
theorem sampleRequestWordsDecode : Obligations.SampleRequestWordsDecode := by
  unfold Obligations.SampleRequestWordsDecode
  decide

/-! ### The operation map (30_encoding R36) -/

/-- The row of the operation map with OPSEL `o`: the mask leaves SEL free where it is an operand, and DATA in WR_THR. -/
def rowOfOpsel (o : BitVec 4) : Req24 × Req24 :=
  (reqWord o 0 0, if o = 0 ∨ o = 7 then 0xF0FFFF else if o = 8 then 0xF00000 else 0xFFFFFF)

/-- The row of an instruction is that of the OPSEL of its word. -/
theorem tableRow_eq_rowOfOpsel (i : Instr) : tableRow i = rowOfOpsel (reqOpsel (encode i)) := by
  cases i <;> simp only [encode, reqOpsel_reqWord] <;> rfl

/-- An encoded word is of the instruction's own row. -/
theorem encode_and_mask (i : Instr) : encode i &&& (tableRow i).2 = (tableRow i).1 := by
  cases i with
  | rdCh sel => exact Laws.TableWord.rdCh sel
  | rdAll => exact Laws.TableWord.rdAll
  | rdAdc => exact Laws.TableWord.rdAdc
  | rdXyz => exact Laws.TableWord.rdXyz
  | rdXy => exact Laws.TableWord.rdXy
  | rdLux => exact Laws.TableWord.rdLux
  | rdRgb => exact Laws.TableWord.rdRgb
  | rdThr sel => exact Laws.TableWord.rdThr sel
  | wrThr sel mant exp => exact Laws.TableWord.wrThr sel mant exp

/-- Every mask keeps the whole of OPSEL. -/
theorem reqOpsel_mask (o : BitVec 4) : reqOpsel (rowOfOpsel o).2 = BitVec.allOnes 4 := by
  revert o
  decide

theorem reqOpsel_and_mask (w : Req24) (j : Instr) : reqOpsel (w &&& (tableRow j).2) = reqOpsel w := by
  have hmask : reqOpsel (tableRow j).2 = BitVec.allOnes 4 := by rw [tableRow_eq_rowOfOpsel, reqOpsel_mask]
  rw [reqOpsel, BitVec.extractLsb'_and]
  exact (congrArg (reqOpsel w &&& ·) hmask).trans BitVec.and_allOnes

/-- A word of the instruction's row has its OPSEL. -/
theorem reqOpsel_of_matches {w : Req24} {j : Instr} (h : w &&& (tableRow j).2 = (tableRow j).1) :
    reqOpsel w = reqOpsel (encode j) := by
  rw [← reqOpsel_and_mask w j, h, ← encode_and_mask j, reqOpsel_and_mask]

/-- Settles O4: a word that matches a row has the row's OPSEL, and OPSEL determines the row. -/
theorem acceptedWordsMatchExactlyTheirTableRow : Obligations.AcceptedWordsMatchExactlyTheirTableRow := by
  unfold Obligations.AcceptedWordsMatchExactlyTheirTableRow
  intro w i h j
  obtain ⟨-, rfl⟩ := decode_eq_ok.mp h
  constructor
  · intro hmatch
    rw [tableRow_eq_rowOfOpsel j, ← reqOpsel_of_matches hmatch, ← tableRow_eq_rowOfOpsel i]
  · intro hrow
    rw [hrow]
    exact encode_and_mask i

end Sys2Proof

namespace Sys2Proof.Machine

/-! ### Command codes and STATUS (30_encoding R34, R38) -/

/-- Settles O15: the four channels one by one. -/
theorem commandCodesNameTheRegisters : Obligations.CommandCodesNameTheRegisters := by
  unfold Obligations.CommandCodesNameTheRegisters
  decide

/-- Settles O19. -/
theorem statusNumbers : Obligations.StatusNumbers := by
  unfold Obligations.StatusNumbers
  decide

/-! ### Legal transactions and legal responses -/

theorem cmdResult_le (ch : Fin 4) : (cmdResult1 ch).toNat ≤ 9 ∧ (cmdResult2 ch).toNat ≤ 9 := by
  revert ch
  decide

/-- A legal SEL names one of the two threshold registers. -/
theorem cmdThreshold_of_sel_le {sel : BitVec 4} (h : sel.toNat ≤ 1) :
    (cmdThreshold sel).toNat = 0x08 ∨ (cmdThreshold sel).toNat = 0x09 := by
  revert sel
  decide

theorem pairReads_legal {dev : Nat} {ch : Fin 4} {t : Transaction} (ht : t ∈ pairReads dev ch) : t.legal = true := by
  obtain ⟨h1, h2⟩ := cmdResult_le ch
  rcases List.mem_pair.mp ht with rfl | rfl
  · simpa [Transaction.legal] using h1
  · simpa [Transaction.legal] using h2

theorem allReads_legal {dev : Nat} {t : Transaction} (ht : t ∈ allReads dev) : t.legal = true := by
  simp only [allReads, List.mem_append] at ht
  rcases ht with ((h | h) | h) | h
  all_goals exact pairReads_legal h

/-- A well-formed operation issues legal transactions only (20_memory R19). -/
theorem transactionsOf_legal {dev : Nat} {i : Instr} {t : Transaction} (hi : i.WellFormed)
    (ht : t ∈ transactionsOf dev i) : t.legal = true := by
  cases i with
  | rdCh sel => exact pairReads_legal ht
  | rdLux => exact pairReads_legal ht
  | rdThr sel =>
    obtain rfl := List.mem_singleton.mp ht
    rcases cmdThreshold_of_sel_le (wellFormed_rdThr.mp hi) with h | h
    all_goals simp [Transaction.legal, h]
  | wrThr sel mant exp =>
    obtain rfl := List.mem_singleton.mp ht
    rcases cmdThreshold_of_sel_le (wellFormed_wrThr.mp hi) with h | h
    all_goals simp [Transaction.legal, h]
  | _ => exact allReads_legal ht

/-- A response with STATUS None may have the field and any payload in range. -/
theorem legal_of_inRange (e : Option (BitVec 4)) {p : Payload} (hp : p.inRange = true) :
    (⟨0, e, p⟩ : Response).legal = true := by
  simp [Response.legal, hp]

theorem errorResponse_legal (k : LinkError) : (errorResponse k).legal = true := by
  cases k <;> rfl

theorem xyResponse_legal (e : BitVec 4) (c : Option (NumQ × NumQ)) : (xyResponse e c).legal = true := by
  cases c <;> simp [xyResponse, Response.legal, Payload.inRange]

/-- CLAMP answers a value in [0, 1] (42_color_pipeline R55). -/
theorem clamp_mem (v : NumQ) : 0 ≤ clamp v ∧ clamp v ≤ 1 := by
  unfold clamp
  split
  · norm_num
  · split
    · norm_num
    · constructor <;> linarith

/-- A colour is in range, whatever is companded (42_color_pipeline R56). -/
theorem rgb_finishColour_inRange (c : RgbCfg) (r g b : NumQ) :
    (Payload.rgb (finishColour c r) (finishColour c g) (finishColour c b)).inRange = true := by
  simp [Payload.inRange, finishColour, clamp_mem]

/-! ### What an operation adds to the records -/

/-- `t` is idle, and has only legal transactions and legal responses beyond those of `s`. -/
def State.AddsLegal (s t : State) : Prop :=
  t.Idle ∧ ∃ (ts : List Transaction) (rs : List Response), t.issued = s.issued ++ ts ∧ t.delivered = s.delivered ++ rs ∧
    (∀ x ∈ ts, x.legal = true) ∧ ∀ r ∈ rs, r.legal = true

/-- The invariant is kept by what adds legal records only. -/
theorem State.AddsLegal.inv {s t : State} (h : s.AddsLegal t) (hs : s.Inv) : t.Inv := by
  obtain ⟨hidle, ts, rs, hissued, hdelivered, hts, hrs⟩ := h
  obtain ⟨-, hsi, hsd⟩ := hs
  refine ⟨hidle, fun x hx => ?_, fun r hr => ?_⟩
  · rw [hissued] at hx
    exact (List.mem_append.mp hx).elim (hsi x) (hts x)
  · rw [hdelivered] at hr
    exact (List.mem_append.mp hr).elim (hsd r) (hrs r)

/-- A legal response to legal transactions. -/
theorem afterResponse_addsLegal {s : State} {ts : List Transaction} {r : Response} (hts : ∀ x ∈ ts, x.legal = true)
    (hr : r.legal = true) : s.AddsLegal (s.afterResponse ts r) :=
  ⟨⟨rfl, rfl, rfl, rfl⟩, ts, [r], rfl, rfl, hts, by simpa using hr⟩

/-- An operation stopped after legal transactions, by a link error or a reset. -/
theorem stopAt_addsLegal {s t : State} {ts : List Transaction} {e : LinkEvent} (he : linkWord e = none)
    (hts : ∀ x ∈ ts, x.legal = true) (h : outcome (.error (stopAt e (s.ran ts))) = .next t) : s.AddsLegal t := by
  cases e with
  | answer a =>
    cases a with
    | ok b0 b1 => simp [linkWord] at he
    | err k =>
      obtain rfl : s.afterResponse ts (errorResponse k) = t := Host.Outcome.next.inj h
      exact afterResponse_addsLegal hts (errorResponse_legal k)
  | host e =>
    cases e with
    | request w => simp [stopAt] at h
    | configure c => simp [stopAt] at h
    | reset =>
      obtain rfl : (s.ran ts).resetNow = t := Host.Outcome.next.inj h
      exact ⟨⟨rfl, rfl, rfl, rfl⟩, ts, [], rfl, (List.append_nil _).symm, hts, by simp⟩

/-- The response of a legal, configured operation whose transactions are all answered Ok is legal. -/
theorem exec_answered_legal {i : Instr} {s : State} (hb : s.busy = false) (hi : i.WellFormed)
    (hc : configuredFor s.cfg i = true) (hok : s.okUpTo (transactionsOf s.cfg.devAddr i).length) :
    ∃ r : Response, r.legal = true ∧ exec i s = .next (s.afterResponse (transactionsOf s.cfg.devAddr i) r) := by
  obtain ⟨ws, hlen, ha⟩ := answers_of_okUpTo hok
  cases i with
  | rdCh sel =>
    obtain ⟨a, b, rfl⟩ := List.length_eq_two.mp hlen
    exact ⟨_, legal_of_inRange _ rfl, exec_rdCh_answered hb hi ha⟩
  | rdAll =>
    obtain ⟨a0, b0, a1, b1, a2, b2, a3, b3, rfl⟩ := eq_four_pairs_of_length hlen
    exact ⟨_, legal_of_inRange _ rfl, exec_rdAll_answered hb ha⟩
  | rdAdc =>
    obtain ⟨a0, b0, a1, b1, a2, b2, a3, b3, rfl⟩ := eq_four_pairs_of_length hlen
    exact ⟨_, legal_of_inRange _ rfl, exec_rdAdc_answered hb ha⟩
  | rdXyz =>
    obtain ⟨o, ho⟩ := Option.isSome_iff_exists.mp hc
    obtain ⟨a0, b0, a1, b1, a2, b2, a3, b3, rfl⟩ := eq_four_pairs_of_length hlen
    exact ⟨_, legal_of_inRange _ rfl, exec_rdXyz_answered hb ho ha⟩
  | rdXy =>
    obtain ⟨o, ho⟩ := Option.isSome_iff_exists.mp hc
    obtain ⟨a0, b0, a1, b1, a2, b2, a3, b3, rfl⟩ := eq_four_pairs_of_length hlen
    exact ⟨_, xyResponse_legal _ _, exec_rdXy_answered hb ho ha⟩
  | rdLux =>
    obtain ⟨a, b, rfl⟩ := List.length_eq_two.mp hlen
    exact ⟨_, legal_of_inRange _ rfl, exec_rdLux_answered hb ha⟩
  | rdRgb =>
    obtain ⟨c, hrgb⟩ := Option.isSome_iff_exists.mp hc
    obtain ⟨a0, b0, a1, b1, a2, b2, a3, b3, rfl⟩ := eq_four_pairs_of_length hlen
    exact ⟨_, legal_of_inRange _ (rgb_finishColour_inRange c _ _ _), exec_rdRgb_answered hb hrgb ha rfl⟩
  | rdThr sel =>
    obtain ⟨w, rfl⟩ := List.length_eq_one_iff.mp hlen
    exact ⟨_, legal_of_inRange _ rfl, exec_rdThr_answered hb hi ha⟩
  | wrThr sel mant exp => exact ⟨_, legal_of_inRange _ rfl, exec_wrThr_answered hb hi hok⟩

/-- An operation that gives a next state adds legal records only, whatever the link does. -/
theorem exec_addsLegal {i : Instr} {s t : State} (h : exec i s = .next t) : s.AddsLegal t := by
  rcases exec_cases i s with ⟨-, he⟩ | ⟨-, v, -, he⟩ | ⟨-, -, -, he⟩ | ⟨hb, hi, hc, -⟩
  · simp [he] at h
  · simp [he] at h
  · simp [he] at h
  rcases okUpTo_or_first_failure s (transactionsOf s.cfg.devAddr i).length with hok | ⟨n, hn, hok, hfail⟩
  · obtain ⟨r, hr, he⟩ := exec_answered_legal hb hi hc hok
    obtain rfl : s.afterResponse (transactionsOf s.cfg.devAddr i) r = t := by simpa [he] using h
    exact afterResponse_addsLegal (fun x hx => transactionsOf_legal hi hx) hr
  · rw [exec_stops hb hi hc hn hok hfail] at h
    exact stopAt_addsLegal hfail (fun x hx => transactionsOf_legal hi (List.mem_of_mem_take hx)) h

/-- A step either runs an operation, or issues and delivers nothing and leaves an idle block idle. -/
theorem step_next_cases {s t : State} (h : step s = .next t) :
    (∃ i rest, exec i { s with host := rest } = .next t) ∨
      ((s.Idle → t.Idle) ∧ t.issued = s.issued ∧ t.delivered = s.delivered) := by
  rcases fetch_cases s with ⟨-, hf⟩ | ⟨w, rest, -, ⟨-, hf⟩ | ⟨-, v, -, hf⟩ | ⟨-, i, -, hf⟩⟩ |
    ⟨c, rest, -, ⟨-, hf⟩ | ⟨-, hf⟩⟩ | ⟨rest, -, hf⟩
  · obtain rfl : s = t := by simpa [step_of_done hf] using h
    exact .inr ⟨id, rfl, rfl⟩
  · simp [step_of_done hf] at h
  · simp [step_of_done hf] at h
  · exact .inl ⟨i, rest, step_of_run hf ▸ h⟩
  · simp [step_of_done hf] at h
  · obtain rfl : { s with cfg := c, host := rest } = t := by simpa [step_of_done hf] using h
    exact .inr ⟨id, rfl, rfl⟩
  · obtain rfl : State.resetNow { s with host := rest } = t := by simpa [step_of_done hf] using h
    exact .inr ⟨fun _ => ⟨rfl, rfl, rfl, rfl⟩, rfl, rfl⟩

/-- Settles O54: an operation adds legal records only, and every other step adds none. -/
theorem everyStepKeepsTheInvariant : Obligations.EveryStepKeepsTheInvariant := by
  unfold Obligations.EveryStepKeepsTheInvariant
  intro s t hs h
  rcases step_next_cases h with ⟨i, rest, he⟩ | ⟨hidle, hissued, hdelivered⟩
  · have hs' : State.Inv { s with host := rest } := hs
    exact (exec_addsLegal he).inv hs'
  · obtain ⟨hsidle, hsi, hsd⟩ := hs
    exact ⟨hidle hsidle, hissued ▸ hsi, hdelivered ▸ hsd⟩

end Sys2Proof.Machine

/-! The units REASM, CRC4 and CRCCHK (40_reassembly_crc): the parity of a field as an exclusive-or over a list of bit
indices, and with it the CRC's tap table, its masks, and what an error in one bit does to it. -/

namespace Sys2Proof.Machine

/-! ### Exclusive-or over a list of bits -/

/-- The exclusive-or of the bits of `v` at the indices `l`. -/
def xorBits {n : Nat} (v : BitVec n) (l : List Nat) : Bool := l.foldr (fun i acc => v.getLsbD i ^^ acc) false

@[simp] theorem xorBits_nil {n : Nat} (v : BitVec n) : xorBits v [] = false := rfl

@[simp] theorem xorBits_cons {n : Nat} (v : BitVec n) (i : Nat) (l : List Nat) :
    xorBits v (i :: l) = (v.getLsbD i ^^ xorBits v l) := rfl

theorem foldl_xor_eq_xorBits {n : Nat} (v : BitVec n) (l : List Nat) (acc : Bool) :
    l.foldl (fun acc i => acc ^^ v.getLsbD i) acc = (acc ^^ xorBits v l) := by
  induction l generalizing acc with
  | nil => simp
  | cons i l ih => simp [ih]

/-- The model's parity at a stride is the exclusive-or over the taps. -/
theorem parityAt_eq_xorBits {n : Nat} (v : BitVec n) (stride offset : Nat) :
    parityAt v stride offset = xorBits v (taps n stride offset) := by
  rw [parityAt, foldl_xor_eq_xorBits, Bool.false_xor]

theorem xorBits_append {n : Nat} (v : BitVec n) (l l' : List Nat) :
    xorBits v (l ++ l') = (xorBits v l ^^ xorBits v l') := by
  induction l with
  | nil => simp
  | cons i l ih => simp [ih]

/-- Parity is linear. -/
theorem xorBits_xor {n : Nat} (v w : BitVec n) (l : List Nat) :
    xorBits (v ^^^ w) l = (xorBits v l ^^ xorBits w l) := by
  induction l with
  | nil => rfl
  | cons i l ih =>
    simp only [xorBits_cons, ih, BitVec.getLsbD_xor, Bool.xor_assoc, Bool.xor_left_comm]

/-- A mask chooses the indices. -/
theorem xorBits_and {n : Nat} (v m : BitVec n) (l : List Nat) :
    xorBits (v &&& m) l = xorBits v (l.filter fun i => m.getLsbD i) := by
  induction l with
  | nil => rfl
  | cons i l ih =>
    cases hi : m.getLsbD i with
    | false => simp [hi, ih]
    | true => simp [hi, ih]

/-- The bits of a field are bits of the whole word. -/
theorem xorBits_extractLsb' {n k m : Nat} (v : BitVec n) {l : List Nat} (hl : ∀ i ∈ l, i < m) :
    xorBits (v.extractLsb' k m) l = xorBits v (l.map (k + ·)) := by
  induction l with
  | nil => rfl
  | cons i l ih =>
    obtain ⟨hi, hl⟩ := List.forall_mem_cons.mp hl
    simp [hi, ih hl]

theorem lt_of_mem_taps {i width stride offset : Nat} (h : i ∈ taps width stride offset) : i < width :=
  List.mem_range.mp (List.mem_of_mem_filter h)

theorem parityAt_extractLsb' {n : Nat} (v : BitVec n) (k m stride offset : Nat) :
    parityAt (v.extractLsb' k m) stride offset = xorBits v ((taps m stride offset).map (k + ·)) := by
  rw [parityAt_eq_xorBits, xorBits_extractLsb' v fun _ => lt_of_mem_taps]

theorem parityAt_xor {n : Nat} (v w : BitVec n) (stride offset : Nat) :
    parityAt (v ^^^ w) stride offset = (parityAt v stride offset ^^ parityAt w stride offset) := by
  simp only [parityAt_eq_xorBits, xorBits_xor]

/-- The indices that a mask chooses. -/
def maskTaps {n : Nat} (m : BitVec n) : List Nat := (List.range n).filter fun i => m.getLsbD i

theorem parity_and {n : Nat} (v m : BitVec n) : parity (v &&& m) = xorBits v (maskTaps m) := by
  have hall : taps n 1 0 = List.range n := List.filter_eq_self.mpr fun i _ => by simp [Nat.mod_one]
  rw [parity, parityAt_eq_xorBits, hall, xorBits_and, maskTaps]

/-- The parity of a masked field. -/
theorem parity_extractLsb'_and {n : Nat} (v : BitVec n) (k : Nat) {m : Nat} (mask : BitVec m) :
    parity (v.extractLsb' k m &&& mask) = xorBits v ((maskTaps mask).map (k + ·)) := by
  rw [parity_and, xorBits_extractLsb']
  exact fun i hi => List.mem_range.mp (List.mem_of_mem_filter hi)

/-! ### REASM (R41) -/

theorem pairMant_toNat (w1 w2 : Word) : (pairMant w1 w2).toNat = w1.toNat % 4096 * 256 + w2.toNat / 256 := by
  have hlow : w2.toNat / 256 < 2 ^ 8 := by omega
  have h8 : (w2.extractLsb' 8 8).toNat = w2.toNat / 256 := by
    rw [BitVec.extractLsb'_toNat, Nat.shiftRight_eq_div_pow, Nat.mod_eq_of_lt hlow]
  rw [pairMant, BitVec.toNat_append, h8, ← Nat.shiftLeft_add_eq_or_of_lt hlow, Nat.shiftLeft_eq,
    BitVec.extractLsb'_toNat, Nat.shiftRight_zero]

/-- Settles O20: the reading is the concatenation of the two words, and its fields are those of the words. -/
theorem reassemblyIsTheFieldSplit : Obligations.ReassemblyIsTheFieldSplit := by
  unfold Obligations.ReassemblyIsTheFieldSplit
  intro ch s w1 w2 h1 h2
  obtain ⟨hexp, hmant, hcnt, hcrc⟩ := rdFields_append w1 w2
  refine ⟨w1 ++ w2, rfl, hexp, hmant, hcnt, hcrc, hmant ▸ pairMant_toNat w1 w2, ?_⟩
  simp [reasm, h1, h2, reassemble_eq_append, State.upd]

/-! ### CRC4 (R42, R44) -/

/-- The tap table: the strides and offsets of R42 written out for fields of 4 and of 20 bits. -/
theorem taps_of_tapTable :
    taps 4 2 0 = [0, 2] ∧ taps 20 2 0 = [0, 2, 4, 6, 8, 10, 12, 14, 16, 18] ∧
    taps 4 2 1 = [1, 3] ∧ taps 20 2 1 = [1, 3, 5, 7, 9, 11, 13, 15, 17, 19] ∧
    taps 4 4 3 = [3] ∧ taps 20 4 3 = [3, 7, 11, 15, 19] ∧ taps 20 8 3 = [3, 11, 19] := by
  decide

/-- The bits of four bits put together. -/
theorem getLsbD_ofBool_append (x3 x2 x1 x0 : Bool) :
    (BitVec.ofBool x3 ++ BitVec.ofBool x2 ++ BitVec.ofBool x1 ++ BitVec.ofBool x0).getLsbD 0 = x0 ∧
    (BitVec.ofBool x3 ++ BitVec.ofBool x2 ++ BitVec.ofBool x1 ++ BitVec.ofBool x0).getLsbD 1 = x1 ∧
    (BitVec.ofBool x3 ++ BitVec.ofBool x2 ++ BitVec.ofBool x1 ++ BitVec.ofBool x0).getLsbD 2 = x2 ∧
    (BitVec.ofBool x3 ++ BitVec.ofBool x2 ++ BitVec.ofBool x1 ++ BitVec.ofBool x0).getLsbD 3 = x3 := by
  revert x3 x2 x1 x0
  decide

/-- Settles O21: each bit is the exclusive-or over the taps of its stride and offset. -/
theorem crcFollowsTheTapTable : Obligations.CrcFollowsTheTapTable := by
  unfold Obligations.CrcFollowsTheTapTable
  constructor
  · intro e r c
    obtain ⟨h0, h1, h2, h3⟩ := getLsbD_ofBool_append (parityAt r 8 3)
      (parityAt e 4 3 ^^ parityAt r 4 3 ^^ parityAt c 4 3) (parityAt e 2 1 ^^ parityAt r 2 1 ^^ parityAt c 2 1)
      (parityAt e 2 0 ^^ parityAt r 2 0 ^^ parityAt c 2 0)
    refine ⟨h0.trans ?_, h1.trans ?_, h2.trans ?_, h3.trans ?_⟩
    all_goals
      simp only [parityAt_eq_xorBits, taps_of_tapTable, xorBits_cons, xorBits_nil, Bool.xor_false, Bool.xor_assoc]
  · intro ch s rd hrd
    simp [crc4, hrd, State.upd]

/-- The taps in the exponent, the mantissa and the counter of a reading, as bits of the reading (30_encoding R32). -/
def rdTaps (stride offset : Nat) : List Nat :=
  (taps 4 stride offset).map (4 + ·) ++ (taps 20 stride offset).map (8 + ·) ++ (taps 4 stride offset).map (28 + ·)

theorem parityAt_rdFields (rd : BitVec 32) (stride offset : Nat) :
    (parityAt (rdExp rd) stride offset ^^ parityAt (rdMant rd) stride offset ^^ parityAt (rdCnt rd) stride offset) =
      xorBits rd (rdTaps stride offset) := by
  simp only [rdExp, rdMant, rdCnt, rdTaps, parityAt_extractLsb', xorBits_append, Bool.xor_comm, Bool.xor_left_comm]

/-- The four masks of R44 choose the taps of R42. -/
theorem maskTaps_eq_taps :
    (maskTaps (0x5555555 : BitVec 28)).map (4 + ·) = rdTaps 2 0 ∧
    (maskTaps (0xAAAAAAA : BitVec 28)).map (4 + ·) = rdTaps 2 1 ∧
    (maskTaps (0x8888888 : BitVec 28)).map (4 + ·) = rdTaps 4 3 ∧
    (maskTaps (0x0808080 : BitVec 28)).map (4 + ·) = (taps 20 8 3).map (8 + ·) := by
  decide

/-- Settles O22: both sides are the same exclusive-ors of bits of the reading. -/
theorem crcTapsAreMasksOnTheConcatenation : Obligations.CrcTapsAreMasksOnTheConcatenation := by
  unfold Obligations.CrcTapsAreMasksOnTheConcatenation
  intro rd
  obtain ⟨h0, h1, h2, h3⟩ := maskTaps_eq_taps
  have hmant : parityAt (rdMant rd) 8 3 = xorBits rd ((taps 20 8 3).map (8 + ·)) := parityAt_extractLsb' rd 8 20 8 3
  simp only [crcOf, crcByMasks, parity_extractLsb'_and, parityAt_rdFields, hmant]
  rw [h0, h1, h2, h3]

theorem ofBool_append_xor (x3 x2 x1 x0 y3 y2 y1 y0 : Bool) :
    (BitVec.ofBool x3 ++ BitVec.ofBool x2 ++ BitVec.ofBool x1 ++ BitVec.ofBool x0) ^^^
        (BitVec.ofBool y3 ++ BitVec.ofBool y2 ++ BitVec.ofBool y1 ++ BitVec.ofBool y0) =
      BitVec.ofBool (x3 ^^ y3) ++ BitVec.ofBool (x2 ^^ y2) ++ BitVec.ofBool (x1 ^^ y1) ++ BitVec.ofBool (x0 ^^ y0) := by
  simp only [BitVec.xor_append, BitVec.ofBool_xor_ofBool]

/-- The CRC is linear. -/
theorem crcOf_xor (e e' : BitVec 4) (r r' : BitVec 20) (c c' : BitVec 4) :
    crcOf (e ^^^ e') (r ^^^ r') (c ^^^ c') = crcOf e r c ^^^ crcOf e' r' c' := by
  refine Eq.trans ?_ (ofBool_append_xor _ _ _ _ _ _ _ _).symm
  simp only [crcOf, parityAt_xor, Bool.xor_assoc, Bool.xor_left_comm]

/-- The CRC of the fields of a reading. -/
def rdComputedCrc (rd : BitVec 32) : BitVec 4 := crcOf (rdExp rd) (rdMant rd) (rdCnt rd)

theorem rdComputedCrc_xor (rd rd' : BitVec 32) :
    rdComputedCrc (rd ^^^ rd') = rdComputedCrc rd ^^^ rdComputedCrc rd' := by
  simp only [rdComputedCrc, rdExp, rdMant, rdCnt, BitVec.extractLsb'_xor, crcOf_xor]

/-- Every bit of the exponent, the mantissa and the counter reaches a bit of the CRC (R42, its corner cases). -/
theorem rdComputedCrc_bit_ne_zero {i : Nat} (h4 : 4 ≤ i) (h32 : i < 32) : rdComputedCrc (1#32 <<< i) ≠ 0 := by
  revert i
  decide

/-- Settles O23: by linearity the CRC changes by that of the flipped bit alone, which is not 0. -/
theorem singleBitErrorsChangeTheCrc : Obligations.SingleBitErrorsChangeTheCrc := by
  unfold Obligations.SingleBitErrorsChangeTheCrc
  intro rd i h4 h32 rd' heq
  have hlin : rdComputedCrc rd ^^^ rdComputedCrc (1#32 <<< i) = rdComputedCrc rd :=
    (rdComputedCrc_xor rd _).symm.trans heq
  exact rdComputedCrc_bit_ne_zero h4 h32 (by simpa using hlin)

/-! ### CRCCHK (R43) -/

/-- A field of a field is a field of the whole word. -/
theorem extractLsb'_extractLsb' {n k m j l : Nat} (v : BitVec n) (h : j + l ≤ m) :
    (v.extractLsb' k m).extractLsb' j l = v.extractLsb' (k + j) l := by
  ext i hi
  have hlt : j + i < m := by omega
  simp [hlt, Nat.add_assoc]

/-- The CRC field is no input of the CRC. -/
theorem pairCrc_crcField (w1 w2 : Word) (f : BitVec 4) : pairCrc w1 (w2.extractLsb' 4 12 ++ f) = pairCrc w1 w2 := by
  have hmant : pairMant w1 (w2.extractLsb' 4 12 ++ f) = pairMant w1 w2 := by
    rw [pairMant, BitVec.extractLsb'_append_eq_of_le (by decide), extractLsb'_extractLsb' _ (by decide), pairMant]
  have hcnt : pairCnt (w2.extractLsb' 4 12 ++ f) = pairCnt w2 := by
    rw [pairCnt, BitVec.extractLsb'_append_eq_of_le (by decide), extractLsb'_extractLsb' _ (by decide), pairCnt]
  rw [pairCrc, hmant, hcnt, pairCrc]

theorem pairCrcField_append (v : BitVec 12) (f : BitVec 4) : pairCrcField (v ++ f) = f :=
  BitVec.extractLsb'_append_eq_right

theorem pairFlag_eq_false {w1 w2 : Word} {f : BitVec 4} :
    pairFlag w1 (w2.extractLsb' 4 12 ++ f) = false ↔ f = pairCrc w1 w2 := by
  rw [pairFlag, pairCrc_crcField, pairCrcField_append, bne_eq_false_iff_eq, eq_comm]

/-- Settles O24: the one CRC field that matches is the computed CRC. -/
theorem crcCheckWritesTheFlagOnly : Obligations.CrcCheckWritesTheFlagOnly := by
  unfold Obligations.CrcCheckWritesTheFlagOnly
  constructor
  · intro ch s rd crcc hrd hcrcc
    have hflag : (crcc != rdCrc rd) = decide (crcc ≠ rd.extractLsb' 0 4) := by simp [rdCrc, bne, beq_eq_decide]
    simp [crcchk, hrd, hcrcc, hflag, State.upd]
  · exact fun w1 w2 => ⟨pairCrc w1 w2, pairFlag_eq_false.mpr rfl, fun f hf => pairFlag_eq_false.mp hf⟩

end Sys2Proof.Machine

/-! The units NORM and NORMQ (41_adc_normalizer): the ADC value of a reading as an exact integer, the registers the units
write, and the shift as a pipeline. -/

namespace Sys2Proof.Machine

/-! ### NORM and NORMQ (R45, R46) -/

/-- NORM finds its reading; CRCERR is no premise. -/
theorem normAdc_ok {s : State} {ch : Fin 4} {rd : BitVec 32} (h : s.work.rd.get ch = some rd) :
    normAdc ch s = .ok (s.upd fun w => { w with adc := w.adc.set ch (some (adcOfReading rd)) }) := by
  simp [normAdc, h]

/-- The 35 bits hold MANT * 2^EXP of every reading. -/
theorem adcOfReading_toNat (rd : BitVec 32) :
    (adcOfReading rd).toNat = (rdMant rd).toNat * 2 ^ (rdExp rd).toNat :=
  (adcOf_toNat (rdMant rd) (rdExp rd)).1

theorem adcOfReading_toNat_le (rd : BitVec 32) : (adcOfReading rd).toNat ≤ 34359705600 :=
  (adcOfReading_toNat rd).trans_le (adcOf_toNat (rdMant rd) (rdExp rd)).2

/-- Settles O25: the register NORM writes holds the ADC value of the reading, which is exact and bounded. -/
theorem adcIsMantissaTimesTwoToTheExponent : Obligations.AdcIsMantissaTimesTwoToTheExponent := by
  unfold Obligations.AdcIsMantissaTimesTwoToTheExponent
  intro ch s rd hrd
  exact ⟨adcOfReading rd, adcOfReading_toNat rd, adcOfReading_toNat_le rd, normAdc_ok hrd⟩

/-- Settles O27: the four registers hold the ADC values of the four readings. -/
theorem normqNormalisesAllFourChannels : Obligations.NormqNormalisesAllFourChannels := by
  unfold Obligations.NormqNormalisesAllFourChannels
  intro s r hr
  refine ⟨⟨adcOfReading r.c0, adcOfReading r.c1, adcOfReading r.c2, adcOfReading r.c3⟩, fun ch => ?_, normq_ok hr⟩
  match ch with
  | 0 => exact adcOfReading_toNat r.c0
  | 1 => exact adcOfReading_toNat r.c1
  | 2 => exact adcOfReading_toNat r.c2
  | 3 => exact adcOfReading_toNat r.c3

/-! ### The left-shift pipeline (R45) -/

/-- A stage of the pipeline shifts by its amount times its bit. -/
theorem ite_shiftLeft {n : Nat} (c : Bool) (v : BitVec n) (k : Nat) :
    (if c then v <<< k else v) = v <<< (c.toNat * k) := by
  cases c with
  | false => simp
  | true => simp

/-- The exponent is the sum of what its four bits are worth. -/
theorem exp_toNat_eq_sum_bits (exp : BitVec 4) :
    exp.toNat = (exp.getLsbD 0).toNat * 1 + (exp.getLsbD 1).toNat * 2 + (exp.getLsbD 2).toNat * 4 +
      (exp.getLsbD 3).toNat * 8 := by
  revert exp
  decide

/-- Settles O26: the amounts of the four stages add up to the exponent. -/
theorem adcShiftPipelineAgrees : Obligations.AdcShiftPipelineAgrees := by
  unfold Obligations.AdcShiftPipelineAgrees
  intro mant exp
  rw [adcOf, exp_toNat_eq_sum_bits exp]
  simp only [adcStaged, ite_shiftLeft, BitVec.shiftLeft_add]

end Sys2Proof.Machine

/-! The colour pipeline (42_color_pipeline): the matrix and the Lux shortcut, chromaticity, and the way from X, Y, Z to a
colour. -/

namespace Sys2Proof.Machine

/-! ### The matrix (R48, R49) -/

/-- Settles O28: the four columns of M written out. -/
theorem matrixMultiplyWritesXyzAndLux : Obligations.MatrixMultiplyWritesXyzAndLux := by
  unfold Obligations.MatrixMultiplyWritesXyzAndLux
  intro o s a0 a1 a2 a3 h
  exact matmul_ok o (a := ⟨a0, a1, a2, a3⟩) h

/-- The channel-3 row of M is zero, so the sum ends with channel 2. -/
theorem matmulOut_eq_sum_of_three (o : Mat3 NumQ) (a : Quad (BitVec 35)) (j : Fin 4) :
    matmulOut o a j = numAdc a.c0 * calM o 0 j + numAdc a.c1 * calM o 1 j + numAdc a.c2 * calM o 2 j := by
  obtain ⟨-, -, -, hrow⟩ := calM_hardwired o
  rw [matmulOut, hrow, mul_zero, add_zero]

/-- The Lux column of M holds the Lux coefficient for channel 1 and zero for the others. -/
theorem matmulOut_lux (o : Mat3 NumQ) (a : Quad (BitVec 35)) : matmulOut o a 3 = luxOf a.c1 := by
  obtain ⟨h0, h1, h2, -⟩ := calM_hardwired o
  rw [matmulOut_eq_sum_of_three, h0, h1, h2, luxOf, luxCoeff]
  ring

theorem coeffs_of_values {c : Cfg} {o : Mat3 NumQ} (h : c.m = Mat3.values o) : c.coeffs = some o :=
  allEntries_eq_some.mpr h

/-- Settles O30: the two runs have the same ADC values in channels 0, 1 and 2, and no other enters a sum. -/
theorem channelThreeNeverChangesXyz : Obligations.ChannelThreeNeverChangesXyz := by
  unfold Obligations.ChannelThreeNeverChangesXyz
  intro s t a0 b0 a1 b1 a2 b2 a3 b3 a3' b3' o hbs hbt hms hmt has hat
  have hout : ∀ j, matmulOut o (adcsOf a0 b0 a1 b1 a2 b2 a3' b3') j = matmulOut o (adcsOf a0 b0 a1 b1 a2 b2 a3 b3) j := by
    intro j
    simp only [matmulOut_eq_sum_of_three, adcsOf]
  have ht := exec_rdXyz_answered hbt (coeffs_of_values hmt) hat
  simp only [hout] at ht
  exact ⟨_, _, _, exec_rdXyz_answered hbs (coeffs_of_values hms) has, ht⟩

/-! ### The Lux shortcut (R50) -/

/-- LUXSC finds the ADC value of channel 1. -/
theorem luxsc_ok {s : State} {a : BitVec 35} (h : s.work.adc.get 1 = some a) :
    luxsc s = .ok (s.upd fun w => { w with lux := some (luxOf a) }) := by
  simp [luxsc, h]

/-- Settles O29: both operations answer `luxOf` of the ADC value of channel 1. -/
theorem luxShortcutAgreesWithTheMatrix : Obligations.LuxShortcutAgreesWithTheMatrix := by
  unfold Obligations.LuxShortcutAgreesWithTheMatrix
  refine ⟨fun s a h => luxsc_ok h, ?_⟩
  intro s t a0 b0 a1 b1 a2 b2 a3 b3 o hbs hbt hm has hat
  have hxyz := exec_rdXyz_answered hbs (coeffs_of_values hm) has
  rw [matmulOut_lux] at hxyz
  exact ⟨_, _, _, _, _, _, hxyz, exec_rdLux_answered hbt hat⟩

/-! ### Chromaticity (R51) -/

theorem chromaticity_of_sum_eq_zero {x y z : NumQ} (h : x + y + z = 0) : chromaticity x y z = none :=
  if_pos h

theorem chromaticity_of_sum_ne_zero {x y z : NumQ} (h : x + y + z ≠ 0) :
    chromaticity x y z = some (x / (x + y + z), y / (x + y + z)) :=
  if_neg h

/-- A chromaticity exists only for a nonzero sum. -/
theorem chromaticity_eq_some {x y z cx cy : NumQ} : chromaticity x y z = some (cx, cy) ↔
    x + y + z ≠ 0 ∧ x / (x + y + z) = cx ∧ y / (x + y + z) = cy := by
  by_cases h : x + y + z = 0
  · simp [chromaticity_of_sum_eq_zero h, h]
  · simp [chromaticity_of_sum_ne_zero h, h]

/-- Settles O32: a nonzero factor leaves a zero sum zero and cancels in both quotients of a nonzero one. -/
theorem chromaticityIsScaleInvariant : Obligations.ChromaticityIsScaleInvariant := by
  unfold Obligations.ChromaticityIsScaleInvariant
  constructor
  · intro k x y z hk
    have hsum : k * x + k * y + k * z = k * (x + y + z) := by ring
    by_cases h : x + y + z = 0
    · rw [chromaticity_of_sum_eq_zero h, chromaticity_of_sum_eq_zero (by rw [hsum, h, mul_zero])]
    · rw [chromaticity_of_sum_ne_zero h, chromaticity_of_sum_ne_zero (hsum ▸ mul_ne_zero hk h), hsum,
        mul_div_mul_left _ _ hk, mul_div_mul_left _ _ hk]
  · intro x y z cx cy h
    obtain ⟨hne, rfl, rfl⟩ := chromaticity_eq_some.mp h
    rw [← add_div, ← add_div, div_self hne]

/-- Four flags shifted to their places are the four bits put together. -/
theorem shifted_flags_eq_append (f0 f1 f2 f3 : Bool) :
    (if f3 then (1#4) <<< 3 else 0#4) ||| (if f2 then (1#4) <<< 2 else 0#4) ||| (if f1 then (1#4) <<< 1 else 0#4) |||
        (if f0 then (1#4) <<< 0 else 0#4) =
      BitVec.ofBool f3 ++ BitVec.ofBool f2 ++ BitVec.ofBool f1 ++ BitVec.ofBool f0 := by
  revert f0 f1 f2 f3
  decide

/-- The response field has the flag of channel ch at bit ch (30_encoding R38). -/
theorem crcerrAll_of_flags {s : State} {f0 f1 f2 f3 : Bool}
    (h : s.work.crcerr = ⟨some f0, some f1, some f2, some f3⟩) :
    crcerrAll s = .ok (BitVec.ofBool f3 ++ BitVec.ofBool f2 ++ BitVec.ofBool f1 ++ BitVec.ofBool f0) := by
  rw [crcerrAll, crcerrBit_ok (f := f0) (by rw [h]; rfl), crcerrBit_ok (f := f1) (by rw [h]; rfl),
    crcerrBit_ok (f := f2) (by rw [h]; rfl), crcerrBit_ok (f := f3) (by rw [h]; rfl), ← shifted_flags_eq_append]
  rfl

/-- XYCONV writes the chromaticity of X, Y and Z where there is one. -/
theorem xyconv_ok {s : State} {x y z cx cy : NumQ} (hx : s.work.x = some x) (hy : s.work.y = some y)
    (hz : s.work.z = some z) (hc : chromaticity x y z = some (cx, cy)) :
    xyconv s = .ok (s.upd fun w => { w with cx := some cx, cy := some cy }) := by
  simp [xyconv, hx, hy, hz, hc]

/-- XYCONV raises DomainError with the CRC flags where there is none. -/
theorem xyconv_domainError {s : State} {x y z : NumQ} {e : BitVec 4} (hx : s.work.x = some x)
    (hy : s.work.y = some y) (hz : s.work.z = some z) (hc : chromaticity x y z = none)
    (he : crcerrAll s = .ok e) : xyconv s = raise .domainError (some e) s := by
  simp [xyconv, hx, hy, hz, hc, he]

/-- Settles O31: by whether X, Y and Z have a chromaticity. -/
theorem chromaticityOrDomainError : Obligations.ChromaticityOrDomainError := by
  unfold Obligations.ChromaticityOrDomainError
  intro s x y z f0 f1 f2 f3 hx hy hz hf
  constructor
  · intro hsum
    exact xyconv_ok hx hy hz (chromaticity_of_sum_ne_zero hsum)
  · intro hsum
    rw [xyconv_domainError hx hy hz (chromaticity_of_sum_eq_zero hsum) (crcerrAll_of_flags hf), raise_eq]
    rfl

/-! ### From X, Y, Z to a colour (R52, R53, R56) -/

/-- XYZ2RGB finds X, Y and Z. -/
theorem xyz2rgb_ok {c : RgbCfg} {s : State} {x y z : NumQ} (hx : s.work.x = some x) (hy : s.work.y = some y)
    (hz : s.work.z = some z) : xyz2rgb c s = .ok (s.upd fun w => { w with
      r := some (finishColour c (linearRgb c x y z).1), g := some (finishColour c (linearRgb c x y z).2.1),
      b := some (finishColour c (linearRgb c x y z).2.2) }) := by
  simp [xyz2rgb, hx, hy, hz]

/-- Settles O33: the linear colour and its companding and clamping written out. -/
theorem xyzToRgbNormalizesMultipliesCompandsClamps : Obligations.XyzToRgbNormalizesMultipliesCompandsClamps := by
  unfold Obligations.XyzToRgbNormalizesMultipliesCompandsClamps
  intro c s x y z hx hy hz
  exact xyz2rgb_ok hx hy hz

/-! ### The default compander (R54, R57) -/

theorem compandFn_srgb_of_le (n : Nat) {v : NumQ} (h : v ≤ 7827 / 2500000) : compandFn .srgb n v = 323 / 25 * v :=
  if_pos h

theorem compandFn_srgb_of_lt (n : Nat) {v : NumQ} (h : 7827 / 2500000 < v) :
    compandFn .srgb n v = 211 / 200 * (Config.pow512 n).fn v - 11 / 200 :=
  if_neg h.not_ge

/-- Settles O34: 0 and the threshold are on the linear branch, 1 is on the other, where POW512 is 1. -/
theorem companderIsTheSrgbFunction : Obligations.CompanderIsTheSrgbFunction := by
  unfold Obligations.CompanderIsTheSrgbFunction
  refine fun n v => ⟨compandFn_srgb_of_le n, compandFn_srgb_of_lt n, ?_, ?_, ?_⟩
  · rw [compandFn_srgb_of_le n (by norm_num), mul_zero]
  · rw [compandFn_srgb_of_lt n (by norm_num), (Config.pow512 n).one]
    norm_num
  · rw [compandFn_srgb_of_le n le_rfl]
    norm_num

/-- Settles O35: the distance is 1.055 times that of POW512 from the real power, which is at most COMPAND_EPS. -/
theorem companderIsCloseToTheRealFunction : Obligations.CompanderIsCloseToTheRealFunction := by
  unfold Obligations.CompanderIsCloseToTheRealFunction
  intro n v hv hv1
  have hclose := (Config.pow512 n).close v hv hv1
  have heps : (((Config.pow512 n).eps : NumQ) : ℝ) ≤ 1 / 1000 / (211 / 200) := by
    simpa using Rat.cast_le (K := ℝ).mpr (Config.pow512 n).eps_le
  have hscale : ((compandFn .srgb n v : NumQ) : ℝ) - (1.055 * (v : ℝ) ^ ((5 : ℝ) / 12) - 0.055) =
      211 / 200 * ((((Config.pow512 n).fn v : NumQ) : ℝ) - (v : ℝ) ^ ((5 : ℝ) / 12)) := by
    rw [compandFn_srgb_of_lt n hv]
    push_cast
    ring
  rw [hscale, abs_mul, abs_of_pos (by norm_num)]
  linarith

/-! ### The final colour (R55, R56) -/

theorem clamp_of_nonpos {v : NumQ} (h : v ≤ 0) : clamp v = 0 := by
  unfold clamp
  split_ifs <;> linarith

theorem clamp_of_one_le {v : NumQ} (h : 1 ≤ v) : clamp v = 1 := by
  unfold clamp
  split_ifs <;> linarith

theorem clamp_of_mem {v : NumQ} (h0 : 0 ≤ v) (h1 : v ≤ 1) : clamp v = v := by
  rw [clamp, if_neg h0.not_gt, if_neg h1.not_gt]

/-- CLAMP brings a value up to 0 and then down to 1. -/
theorem clamp_eq_min_max (v : NumQ) : clamp v = min 1 (max 0 v) := by
  rcases le_total v 0 with h0 | h0
  · rw [clamp_of_nonpos h0, max_eq_left h0, min_eq_right zero_le_one]
  · rw [max_eq_right h0]
    rcases le_total v 1 with h1 | h1
    · rw [clamp_of_mem h0 h1, min_eq_right h1]
    · rw [clamp_of_one_le h1, min_eq_left h1]

theorem clamp_monotone : Monotone clamp := by
  intro v w h
  rw [clamp_eq_min_max, clamp_eq_min_max]
  gcongr

/-- Above the threshold the compander is as monotone as POW512 (P2). -/
theorem compandFn_srgb_mono (n : Nat) {v w : NumQ} (hv : 7827 / 2500000 < v) (hvw : v ≤ w) :
    compandFn .srgb n v ≤ compandFn .srgb n w := by
  have hpow := (Config.pow512 n).mono v w hv hvw
  rw [compandFn_srgb_of_lt n hv, compandFn_srgb_of_lt n (hv.trans_le hvw)]
  linarith

/-- From 1 on the compander is at least 1 (P4). -/
theorem one_le_compandFn_srgb (n : Nat) {v : NumQ} (h : 1 ≤ v) : 1 ≤ compandFn .srgb n v := by
  have hpow := pow512_ge_one (Config.pow512 n) h
  rw [compandFn_srgb_of_lt n (by linarith)]
  linarith

/-- Settles O36: the value companded is, case by case, at least 1, at most 0, in [0, 1], and monotone; then it is
clamped. -/
theorem colourCornerCases : Obligations.ColourCornerCases := by
  unfold Obligations.ColourCornerCases
  intro c v hc
  simp only [finishColour, hc]
  refine ⟨fun h => ?_, fun h => ?_, fun h0 hle => ?_, fun v' hv hvv' => ?_⟩
  · exact clamp_of_one_le (one_le_compandFn_srgb _ h)
  · rw [compandFn_srgb_of_le _ (by linarith)]
    exact clamp_of_nonpos (by linarith)
  · rw [compandFn_srgb_of_le _ hle]
    exact clamp_of_mem (by linarith) (by linarith)
  · exact clamp_monotone (compandFn_srgb_mono _ hv hvv')

end Sys2Proof.Machine

/-! The threshold codec (43_threshold): the fields of a threshold word as numbers, THRDEC and THRENC as each other's
inverse, and the threshold as an exact integer. -/

namespace Sys2Proof.Machine

/-! ### THRDEC and THRENC (R58, R59) -/

theorem thrExpField_toNat (w : Word) : (thrExpField w).toNat = w.toNat / 4096 := by
  have hw := w.isLt
  rw [thrExpField, BitVec.extractLsb'_toNat, Nat.shiftRight_eq_div_pow]
  omega

theorem thrMantField_toNat (w : Word) : (thrMantField w).toNat = w.toNat % 4096 := by
  rw [thrMantField, BitVec.extractLsb'_toNat, Nat.shiftRight_zero]

theorem thrdec_thrWord (m : BitVec 12) (e : BitVec 4) : thrdec (thrWord m e) = (e, m) := by
  rw [thrdec, thrWord, thrExpField_append, thrMantField_append]

/-- The fields of {e, m} are e, its quotient by 4096, and m, its remainder. -/
theorem thrWord_toNat (m : BitVec 12) (e : BitVec 4) : (thrWord m e).toNat = e.toNat * 4096 + m.toNat := by
  have hexp : e.toNat = (thrWord m e).toNat / 4096 := by
    rw [← thrExpField_toNat, thrWord, thrExpField_append]
  have hmant : m.toNat = (thrWord m e).toNat % 4096 := by
    rw [← thrMantField_toNat, thrWord, thrMantField_append]
  rw [hexp, hmant, Nat.div_add_mod']

/-- Settles O37: the fields of a word are its quotient and its remainder by 4096. -/
theorem thresholdFieldsAndEncoding : Obligations.ThresholdFieldsAndEncoding := by
  unfold Obligations.ThresholdFieldsAndEncoding
  constructor
  · exact fun w => ⟨thrExpField_toNat w, thrMantField_toNat w⟩
  · exact fun m e s => ⟨thrWord m e, thrWord_toNat m e, rfl⟩

/-- Settles O38: a word is put together from its fields, and they are taken out of it. -/
theorem thresholdCodecRoundTrips : Obligations.ThresholdCodecRoundTrips := by
  unfold Obligations.ThresholdCodecRoundTrips
  exact ⟨thrFields_append, thrdec_thrWord⟩

/-! ### THRADC (R60) -/

/-- The largest mantissa with the largest exponent gives the largest threshold. -/
theorem thrMant_mul_two_pow_le (m : BitVec 12) (e : BitVec 4) : m.toNat * 2 ^ e.toNat ≤ 134184960 := by
  have hm : m.toNat ≤ 4095 := Nat.le_of_lt_succ m.isLt
  have he : e.toNat ≤ 15 := Nat.le_of_lt_succ e.isLt
  calc m.toNat * 2 ^ e.toNat ≤ 4095 * 2 ^ 15 := Nat.mul_le_mul hm (Nat.pow_le_pow_right (by decide) he)
    _ = 134184960 := by norm_num

/-- The shift loses no bit: the largest threshold is below 2^27. -/
theorem thradc_toNat (m : BitVec 12) (e : BitVec 4) : (thradc m e).toNat = m.toNat * 2 ^ e.toNat := by
  have hfit : m.toNat * 2 ^ e.toNat < 2 ^ 27 := (thrMant_mul_two_pow_le m e).trans_lt (by norm_num)
  have hmant : (m.zeroExtend 27).toNat = m.toNat := BitVec.toNat_setWidth_of_le (by decide)
  rw [thradc, BitVec.toNat_shiftLeft, hmant, Nat.shiftLeft_eq, Nat.mod_eq_of_lt hfit]

/-- Settles O39: 27 bits hold the largest threshold, so the shift is exact. -/
theorem thresholdAdcIsExact : Obligations.ThresholdAdcIsExact := by
  unfold Obligations.ThresholdAdcIsExact
  intro m e
  exact ⟨thradc_toNat m e, (thradc_toNat m e).trans_le (thrMant_mul_two_pow_le m e)⟩

end Sys2Proof.Machine

/-! The operations (45_operations): the step that runs a request, what every operation does for every behaviour of the
link, and the nine operations in the terms of the words they read. -/

namespace Sys2Proof.Machine

/-! ### Taking and accepting a request (R61) -/

theorem step_of_request {s : State} {w : Req24} {rest : List HostEvent} {i : Instr} (h : s.host = .request w :: rest)
    (hb : s.busy = false) (hd : decode w = .ok i) : step s = exec i { s with host := rest } :=
  step_of_run (by simp [fetch, h, hb, hd])

/-- Settles O7. -/
theorem stepRunsTheDecodedInstruction : Obligations.StepRunsTheDecodedInstruction :=
  fun _ _ _ _ h hb hd => step_of_request h hb hd

/-- Settles O9: the registers of `Work.empty` written out. -/
theorem acceptLatchesTheRequest : Obligations.AcceptLatchesTheRequest :=
  fun _ _ => rfl

/-! ### Every operation, by the behaviour of the link -/

/-- An operation stopped by a link error has the error's response after what was issued (60_exceptions R74, R79). -/
theorem outcome_stopAt_err (s : State) (ts : List Transaction) (k : LinkError) :
    outcome (.error (stopAt (.answer (.err k)) (s.ran ts))) = .next (s.afterResponse ts (errorResponse k)) := rfl

/-- An operation stopped by a reset leaves an idle block with the reset record (70 R84). -/
theorem outcome_stopAt_reset (s : State) (ts : List Transaction) :
    outcome (.error (stopAt (.host .reset) (s.ran ts))) = .next { s with
      cfg := Cfg.reset, busy := false, op := none, seq := none, work := .empty, link := s.link.drop ts.length,
      issued := s.issued ++ ts } := rfl

/-- A legal, configured operation of an idle block ends at its first link error. -/
theorem exec_endsAtFirstFailure {i : Instr} {s : State} (hb : s.busy = false) (hi : i.WellFormed)
    (hc : configuredFor s.cfg i = true) : EndsAtFirstFailure i s := by
  intro n k hn hok hev
  have hstop : linkWord (s.linkEvent n) = none := by rw [hev]; rfl
  rw [exec_stops hb hi hc hn hok hstop, hev, outcome_stopAt_err]

/-- Settles O50: with all answers Ok by `exec_answered_legal`, and otherwise by the event that stops the operation. -/
theorem everyOperationForEveryLinkBehaviour : Obligations.EveryOperationForEveryLinkBehaviour := by
  unfold Obligations.EveryOperationForEveryLinkBehaviour
  intro i s hi hb hc
  refine ⟨exec_answered_legal hb hi hc, fun n hn hok => ?_⟩
  have hstops := exec_stops hb hi hc hn hok
  cases hev : s.linkEvent n with
  | answer a =>
    cases a with
    | ok b0 b1 => trivial
    | err k => exact exec_endsAtFirstFailure hb hi hc n k hn hok hev
  | host e =>
    rw [hev] at hstops
    cases e with
    | request w => exact hstops rfl
    | configure c => exact hstops rfl
    | reset =>
      have hlen : ((transactionsOf s.cfg.devAddr i).take (n + 1)).length = n + 1 := List.length_take_of_le hn
      have h := (hstops rfl).trans (outcome_stopAt_reset s _)
      rwa [hlen] at h

/-! ### The values of a pair (41_adc_normalizer R45, R47) -/

theorem adcOfReading_reassemble_toNat (a b : Word) : (adcOfReading (reassemble a b)).toNat = pairAdc a b := by
  obtain ⟨hexp, hmant, -, -⟩ := rdFields_append a b
  rw [adcOfReading_toNat, reassemble_eq_append, hexp, hmant, pairAdc]

theorem adcOfReading_reassemble (a b : Word) : adcOfReading (reassemble a b) = BitVec.ofNat 35 (pairAdc a b) := by
  rw [← adcOfReading_reassemble_toNat, BitVec.ofNat_toNat, BitVec.setWidth_eq]

theorem numAdc_reassemble (a b : Word) : numAdc (adcOfReading (reassemble a b)) = pairAdc a b :=
  congrArg Nat.cast (adcOfReading_reassemble_toNat a b)

/-- Output j of the matrix over four pairs: the channel-3 row of M is zero (42_color_pipeline R48, R49). -/
theorem matmulOut_adcsOf (o : Mat3 NumQ) (a0 b0 a1 b1 a2 b2 a3 b3 : Word) (j : Fin 4) :
    matmulOut o (adcsOf a0 b0 a1 b1 a2 b2 a3 b3) j =
      pairAdc a0 b0 * calM o 0 j + pairAdc a1 b1 * calM o 1 j + pairAdc a2 b2 * calM o 2 j := by
  simp only [matmulOut_eq_sum_of_three, adcsOf, numAdc_reassemble]

theorem luxOf_reassemble (a b : Word) : luxOf (adcOfReading (reassemble a b)) = pairAdc a b * (43 / 20000) := by
  rw [luxOf, numAdc_reassemble, luxCoeff]

/-- The Lux output over four pairs is that of channel 1 (42_color_pipeline R50). -/
theorem matmulOut_adcsOf_lux (o : Mat3 NumQ) (a0 b0 a1 b1 a2 b2 a3 b3 : Word) :
    matmulOut o (adcsOf a0 b0 a1 b1 a2 b2 a3 b3) 3 = pairAdc a1 b1 * (43 / 20000) :=
  (matmulOut_lux o _).trans (luxOf_reassemble a1 b1)

/-! ### RD_CH, RD_ALL and RD_ADC (R63 to R65) -/

theorem chanOf_val {sel : BitVec 4} (h : sel.toNat ≤ 3) : (chanOf sel).val = sel.toNat :=
  Nat.mod_eq_of_lt (by omega)

/-- Settles O40: by whether SEL names a channel, which is then SEL itself. -/
theorem rdChReadsOneChannel : Obligations.RdChReadsOneChannel := by
  unfold Obligations.RdChReadsOneChannel
  intro sel s hb
  refine ⟨fun h => decode_encode (i := .rdCh sel) (wellFormed_rdCh.mpr h),
    fun h => exec_violation hb (if_neg h.not_ge), fun h => ?_⟩
  have hi := wellFormed_rdCh.mpr h
  refine ⟨exec_endsAtFirstFailure hb hi rfl, fun w1 w2 ha => ?_⟩
  obtain ⟨hexp, hmant, hcnt, hcrc⟩ := rdFields_append w1 w2
  rw [exec_rdCh_answered hb hi ha, reassemble_eq_append, hexp, hmant, hcnt, hcrc, pairReads, cmdResult1, cmdResult2,
    chanOf_val h]

/-- Settles O41. -/
theorem rdAllReadsFourChannels : Obligations.RdAllReadsFourChannels := by
  unfold Obligations.RdAllReadsFourChannels
  refine ⟨decode_encode (i := .rdAll) rfl, fun s hb => ⟨exec_endsAtFirstFailure hb rfl rfl, ?_⟩⟩
  intro a0 b0 a1 b1 a2 b2 a3 b3 ha
  have h := exec_rdAll_answered hb ha
  simp only [reassemble_eq_append] at h
  exact h

/-- Settles O42: each ADC value is the exact integer of its pair. -/
theorem rdAdcReturnsTheExactQuad : Obligations.RdAdcReturnsTheExactQuad := by
  unfold Obligations.RdAdcReturnsTheExactQuad
  refine ⟨decode_encode (i := .rdAdc) rfl, fun s hb => ⟨exec_endsAtFirstFailure hb rfl rfl, ?_⟩⟩
  intro a0 b0 a1 b1 a2 b2 a3 b3 ha
  have h := exec_rdAdc_answered hb ha
  simp only [adcsOf, adcOfReading_reassemble] at h
  exact h

/-! ### RD_XYZ, RD_XY and RD_LUX (R66 to R68) -/

/-- Settles O43: the columns X, Y and Z of M over the four pairs, and its Lux column. -/
theorem rdXyzReturnsTheLinearTransform : Obligations.RdXyzReturnsTheLinearTransform := by
  unfold Obligations.RdXyzReturnsTheLinearTransform
  refine ⟨decode_encode (i := .rdXyz) rfl, fun s o hb hm =>
    ⟨exec_endsAtFirstFailure hb rfl (coeffs_isSome_iff.mpr ⟨o, hm⟩), ?_⟩⟩
  intro a0 b0 a1 b1 a2 b2 a3 b3 ha
  have h := exec_rdXyz_answered hb (coeffs_of_values hm) ha
  rw [matmulOut_adcsOf_lux] at h
  simp only [matmulOut_adcsOf] at h
  exact h

/-- The response of RD_XY by whether X + Y + Z is zero (R67). -/
theorem xyResponse_chromaticity (e : BitVec 4) (x y z : NumQ) : xyResponse e (chromaticity x y z) =
    if x + y + z = 0 then ⟨6, some e, .none⟩ else ⟨0, some e, .xy (x / (x + y + z)) (y / (x + y + z))⟩ := by
  split
  next h => rw [chromaticity_of_sum_eq_zero h, xyResponse]
  next h => rw [chromaticity_of_sum_ne_zero h, xyResponse]

/-- Settles O44: the response of RD_XY to X, Y and Z, which are the columns of M over the four pairs. -/
theorem rdXyReturnsChromaticityOrDomainError : Obligations.RdXyReturnsChromaticityOrDomainError := by
  unfold Obligations.RdXyReturnsChromaticityOrDomainError
  refine ⟨decode_encode (i := .rdXy) rfl, fun s o hb hm =>
    ⟨exec_endsAtFirstFailure hb rfl (coeffs_isSome_iff.mpr ⟨o, hm⟩), ?_⟩⟩
  rintro a0 b0 a1 b1 a2 b2 a3 b3 ha x y z rfl rfl rfl
  have h := exec_rdXy_answered hb (coeffs_of_values hm) ha
  rw [xyResponse_chromaticity] at h
  simp only [matmulOut_adcsOf] at h
  exact h

/-- Settles O45. -/
theorem rdLuxReadsChannelOneOnly : Obligations.RdLuxReadsChannelOneOnly := by
  unfold Obligations.RdLuxReadsChannelOneOnly
  refine ⟨decode_encode (i := .rdLux) rfl, fun s hb => ⟨exec_endsAtFirstFailure hb rfl rfl, fun w1 w2 ha => ?_⟩⟩
  rw [exec_rdLux_answered hb ha, luxOf_reassemble]
  rfl

/-! ### RD_RGB (R69) -/

/-- The linear colour written out: Z is divided by WY (42_color_pipeline R52, R53). -/
theorem linearRgb_eq (c : RgbCfg) (x y z : NumQ) : linearRgb c x y z =
    (c.mrgb.e00 * (x / c.wx) + c.mrgb.e01 * (y / c.wy) + c.mrgb.e02 * (z / c.wy),
      c.mrgb.e10 * (x / c.wx) + c.mrgb.e11 * (y / c.wy) + c.mrgb.e12 * (z / c.wy),
      c.mrgb.e20 * (x / c.wx) + c.mrgb.e21 * (y / c.wy) + c.mrgb.e22 * (z / c.wy)) := rfl

/-- Settles O46: the linear colour of X, Y and Z under the configuration that RD_RGB reads. -/
theorem rdRgbReturnsTheColour : Obligations.RdRgbReturnsTheColour := by
  unfold Obligations.RdRgbReturnsTheColour
  refine ⟨decode_encode (i := .rdRgb) rfl, fun s hb hc => exec_unconfigured hb rfl hc, ?_⟩
  intro s o g wx wy p hb hm hg hx hy hx0 hy0 hp
  have hrgb : s.cfg.rgb = some ⟨o, g, wx, wy, s.cfg.compandFn, p⟩ :=
    rgb_eq_some.mpr ⟨hm, hg, hx, hy, hp, rfl, hx0, hy0⟩
  refine ⟨exec_endsAtFirstFailure hb rfl (Option.isSome_iff_exists.mpr ⟨_, hrgb⟩), ?_⟩
  rintro a0 b0 a1 b1 a2 b2 a3 b3 ha x y z rfl rfl rfl
  have h := exec_rdRgb_answered hb hrgb ha rfl
  simp only [matmulOut_adcsOf, linearRgb_eq] at h
  exact h

/-! ### A dark sensor (R67, R69) -/

theorem pairAdc_of_mant_eq_zero {a b : Word} (h : pairMant a b = 0) : pairAdc a b = 0 := by
  simp [pairAdc, h]

/-- Four zero mantissas give zero for every output of every calibration. -/
theorem matmulOut_of_dark (o : Mat3 NumQ) {a0 b0 a1 b1 a2 b2 : Word} (a3 b3 : Word) (h0 : pairMant a0 b0 = 0)
    (h1 : pairMant a1 b1 = 0) (h2 : pairMant a2 b2 = 0) (j : Fin 4) :
    matmulOut o (adcsOf a0 b0 a1 b1 a2 b2 a3 b3) j = 0 := by
  simp [matmulOut_adcsOf, pairAdc_of_mant_eq_zero, h0, h1, h2]

theorem linearRgb_zero (c : RgbCfg) : linearRgb c 0 0 0 = (0, 0, 0) := by
  simp [linearRgb_eq]

/-- Settles O49: X, Y and Z are zero; so is their sum, and so is the linear colour, whose companded value is zero. -/
theorem darkSensorGivesDomainErrorAndBlack : Obligations.DarkSensorGivesDomainErrorAndBlack := by
  unfold Obligations.DarkSensorGivesDomainErrorAndBlack
  intro s a0 b0 a1 b1 a2 b2 a3 b3 hb ha h0 h1 h2 _
  have hzero : ∀ o j, matmulOut o (adcsOf a0 b0 a1 b1 a2 b2 a3 b3) j = 0 :=
    fun o => matmulOut_of_dark o a3 b3 h0 h1 h2
  constructor
  · intro hc
    obtain ⟨o, ho⟩ := Option.isSome_iff_exists.mp hc
    have h := exec_rdXy_answered hb ho ha
    rw [hzero, hzero, hzero, chromaticity_of_sum_eq_zero (by norm_num)] at h
    exact ⟨_, h⟩
  · intro hc hsrgb
    obtain ⟨c, hrgb⟩ := Option.isSome_iff_exists.mp hc
    obtain ⟨-, -, -, -, -, hfn, -, -⟩ := rgb_eq_some.mp hrgb
    obtain ⟨-, hblack, -, -⟩ := colourCornerCases c 0 (hfn.symm.trans hsrgb)
    have h := exec_rdRgb_answered (q := (0, 0, 0)) hb hrgb ha (by rw [hzero, hzero, hzero, linearRgb_zero])
    rw [hblack le_rfl] at h
    exact ⟨_, h⟩

/-! ### RD_THR and WR_THR (R70, R71) -/

/-- The threshold registers are 0x08 + which (30_encoding R34). -/
theorem cmdThreshold_eq_ofNat (sel : BitVec 4) : cmdThreshold sel = BitVec.ofNat 8 (8 + sel.toNat) := by
  revert sel
  decide

/-- The threshold of a word as the exact integer (43_threshold R60). -/
theorem thradc_thrFields (w : Word) :
    thradc (thrMantField w) (thrExpField w) = BitVec.ofNat 27 (w.toNat % 4096 * 2 ^ (w.toNat / 4096)) := by
  rw [← thrMantField_toNat, ← thrExpField_toNat, ← thradc_toNat, BitVec.ofNat_toNat, BitVec.setWidth_eq]

/-- Settles O47: by whether SEL names a threshold. -/
theorem rdThrReadsOneThreshold : Obligations.RdThrReadsOneThreshold := by
  unfold Obligations.RdThrReadsOneThreshold
  intro sel s hb
  refine ⟨fun h => decode_encode (i := .rdThr sel) (wellFormed_rdThr.mpr h),
    fun h => exec_violation hb (if_neg h.not_ge), fun h => ?_⟩
  have hi := wellFormed_rdThr.mpr h
  refine ⟨exec_endsAtFirstFailure hb hi rfl, fun w ha => ?_⟩
  rw [exec_rdThr_answered hb hi ha, thradc_thrFields, cmdThreshold_eq_ofNat]
  rfl

/-- Settles O48: by whether SEL names a threshold. -/
theorem wrThrWritesOneThreshold : Obligations.WrThrWritesOneThreshold := by
  unfold Obligations.WrThrWritesOneThreshold
  intro sel mant exp s hb
  refine ⟨fun h => decode_encode (i := .wrThr sel mant exp) (wellFormed_wrThr.mpr h),
    fun h => exec_violation hb (if_neg h.not_ge), fun h => ?_⟩
  have hi : (Instr.wrThr sel mant exp).WellFormed := wellFormed_wrThr.mpr h
  refine ⟨exec_endsAtFirstFailure hb hi rfl, fun hok => ?_⟩
  rw [exec_wrThr_answered hb hi hok, cmdThreshold_eq_ofNat]

end Sys2Proof.Machine

/-! The exceptions (60_exceptions): a request that breaks the contract, the hard errors that end an operation, and the soft
error CrcMismatch, which shows in CRCERR alone. -/

namespace Sys2Proof.Machine

/-! ### Contract violations (R77) -/

theorem exists_decode_error {w : Req24} (h : ¬ legalRequest w) : ∃ v, decode w = .error v := by
  cases hd : decode w with
  | ok i => exact absurd (legalRequest_of_decode hd) h
  | error v => exact ⟨v, rfl⟩

theorem step_of_violation {s : State} {w : Req24} {rest : List HostEvent} {v : Violation}
    (h : s.host = .request w :: rest) (hb : s.busy = false) (hd : decode w = .error v) :
    step s = .fault (.contractViolation v) :=
  step_of_done (by simp [fetch, h, hb, hd])

/-- Settles O6: the decoder refuses every illegal word, and `launch` every illegal operand. -/
theorem contractViolationsAreFaults : Obligations.ContractViolationsAreFaults := by
  unfold Obligations.ContractViolationsAreFaults
  constructor
  · intro s w rest h hb hw
    obtain ⟨v, hd⟩ := exists_decode_error hw
    exact ⟨v, step_of_violation h hb hd⟩
  · intro i s hb hi
    obtain ⟨v, hv⟩ := Option.ne_none_iff_exists'.mp hi
    exact ⟨v, exec_violation hb hv⟩

/-! ### Hard errors (R74, R79) -/

/-- Settles O18: `exec_endsAtFirstFailure` for the operations, and `raise_eq` with the idle state written out. -/
theorem exceptionEntryEndsTheOperation : Obligations.ExceptionEntryEndsTheOperation :=
  ⟨fun _ _ hi hb hc => exec_endsAtFirstFailure hb hi hc, fun k crcerr s => raise_eq k crcerr s⟩

/-! ### CRC mismatches (R75) -/

/-- Two lists of result words, pair by pair, that differ in CRC fields only (30_encoding R31). -/
def SameButCrcFields (ws ws' : List Word) : Prop :=
  (∀ k, k % 2 = 0 → ws'[k]? = ws[k]?) ∧
    ∀ k, k % 2 = 1 → ws'[k]?.map (fun w => w.extractLsb' 4 12) = ws[k]?.map (fun w => w.extractLsb' 4 12)

/-- The CRC field is no part of the mantissa. -/
theorem pairMant_congr {a b b' : Word} (h : b'.extractLsb' 4 12 = b.extractLsb' 4 12) : pairMant a b' = pairMant a b := by
  have hlow : ∀ w : Word, w.extractLsb' 8 8 = (w.extractLsb' 4 12).extractLsb' 4 8 := by
    intro w
    rw [extractLsb'_extractLsb' _ (by decide)]
  rw [pairMant, pairMant, hlow, h, ← hlow]

/-- The ADC value does not depend on the CRC field. -/
theorem adcOfReading_congr {a b b' : Word} (h : b'.extractLsb' 4 12 = b.extractLsb' 4 12) :
    adcOfReading (reassemble a b') = adcOfReading (reassemble a b) := by
  rw [adcOfReading_reassemble, adcOfReading_reassemble, pairAdc, pairAdc, pairMant_congr h]

/-- The first pairs have the same ADC value, and the words after them again differ in CRC fields only. -/
theorem SameButCrcFields.cons {a b a' b' : Word} {ws ws' : List Word}
    (h : SameButCrcFields (a :: b :: ws) (a' :: b' :: ws')) :
    adcOfReading (reassemble a' b') = adcOfReading (reassemble a b) ∧ SameButCrcFields ws ws' := by
  obtain ⟨heven, hodd⟩ := h
  obtain rfl : a' = a := Option.some.inj (heven 0 rfl)
  refine ⟨adcOfReading_congr (Option.some.inj (hodd 1 rfl)), fun k hk => ?_, fun k hk => ?_⟩
  · exact heven (k + 2) (by omega)
  · exact hodd (k + 2) (by omega)

theorem SameButCrcFields.adcsOf_eq {a0 b0 a1 b1 a2 b2 a3 b3 a0' b0' a1' b1' a2' b2' a3' b3' : Word}
    (h : SameButCrcFields [a0, b0, a1, b1, a2, b2, a3, b3] [a0', b0', a1', b1', a2', b2', a3', b3']) :
    adcsOf a0' b0' a1' b1' a2' b2' a3' b3' = adcsOf a0 b0 a1 b1 a2 b2 a3 b3 := by
  obtain ⟨h0, h⟩ := h.cons
  obtain ⟨h1, h⟩ := h.cons
  obtain ⟨h2, h⟩ := h.cons
  obtain ⟨h3, -⟩ := h.cons
  rw [adcsOf, h0, h1, h2, h3, adcsOf]

/-- The STATUS and the payload of RD_XY depend on the chromaticity only. -/
theorem exists_xyResponse_eq (c : Option (NumQ × NumQ)) : ∃ status p, ∀ e, xyResponse e c = ⟨status, some e, p⟩ := by
  cases c with
  | none => exact ⟨6, .none, fun _ => rfl⟩
  | some c => exact ⟨0, .xy c.1 c.2, fun _ => rfl⟩

/-- An operation that computes from four channels has one STATUS and one payload for all words with the ADC values `q`:
the flags show in CRCERR alone. -/
theorem exists_status_payload_of_adcs {i : Instr} {c : Cfg} (hi : i ∈ [.rdAdc, .rdXyz, .rdXy, .rdRgb])
    (hc : configuredFor c i = true) (q : Quad (BitVec 35)) :
    ∃ status p, (status = 0 ∨ i = .rdXy) ∧ ∀ a0 b0 a1 b1 a2 b2 a3 b3, adcsOf a0 b0 a1 b1 a2 b2 a3 b3 = q →
      Responds c i [a0, b0, a1, b1, a2, b2, a3, b3] ⟨status, some (flagsOf a0 b0 a1 b1 a2 b2 a3 b3), p⟩ := by
  cases i with
  | rdAdc =>
    refine ⟨0, .adc q, .inl rfl, ?_⟩
    rintro a0 b0 a1 b1 a2 b2 a3 b3 rfl s hb rfl ha
    exact exec_rdAdc_answered hb ha
  | rdXyz =>
    obtain ⟨o, ho⟩ := Option.isSome_iff_exists.mp hc
    refine ⟨0, .xyz (matmulOut o q 0) (matmulOut o q 1) (matmulOut o q 2) (matmulOut o q 3), .inl rfl, ?_⟩
    rintro a0 b0 a1 b1 a2 b2 a3 b3 rfl s hb rfl ha
    exact exec_rdXyz_answered hb ho ha
  | rdXy =>
    obtain ⟨o, ho⟩ := Option.isSome_iff_exists.mp hc
    obtain ⟨status, p, hxy⟩ := exists_xyResponse_eq (chromaticity (matmulOut o q 0) (matmulOut o q 1) (matmulOut o q 2))
    refine ⟨status, p, .inr rfl, ?_⟩
    rintro a0 b0 a1 b1 a2 b2 a3 b3 rfl s hb rfl ha
    rw [← hxy]
    exact exec_rdXy_answered hb ho ha
  | rdRgb =>
    obtain ⟨r, hr⟩ := Option.isSome_iff_exists.mp hc
    obtain ⟨l, hl⟩ : ∃ l, l = linearRgb r (matmulOut r.coeffs q 0) (matmulOut r.coeffs q 1) (matmulOut r.coeffs q 2) :=
      ⟨_, rfl⟩
    refine ⟨0, .rgb (finishColour r l.1) (finishColour r l.2.1) (finishColour r l.2.2), .inl rfl, ?_⟩
    rintro a0 b0 a1 b1 a2 b2 a3 b3 rfl s hb rfl ha
    exact exec_rdRgb_answered hb hr ha hl
  | _ => exact absurd hi (by simp)

theorem transactionsOf_eq_allReads {i : Instr} (dev : Nat) (hi : i ∈ [.rdAdc, .rdXyz, .rdXy, .rdRgb]) :
    transactionsOf dev i = allReads dev := by
  simp only [List.mem_cons, List.not_mem_nil, or_false] at hi
  rcases hi with rfl | rfl | rfl | rfl
  all_goals rfl

/-- Words that differ in CRC fields only have responses that differ in CRCERR only. -/
theorem SameButCrcFields.responds {i : Instr} {c : Cfg} {ws ws' : List Word} (h : SameButCrcFields ws ws')
    (hi : i ∈ [.rdAdc, .rdXyz, .rdXy, .rdLux, .rdRgb]) (hc : configuredFor c i = true)
    (hlen : ws.length = (transactionsOf c.devAddr i).length) (hlen' : ws'.length = ws.length) :
    ∃ status e e' p, Responds c i ws ⟨status, some e, p⟩ ∧ Responds c i ws' ⟨status, some e', p⟩ ∧
      (status = 0 ∨ i = .rdXy) := by
  by_cases hlux : i = .rdLux
  · subst hlux
    obtain ⟨a, b, rfl⟩ := List.length_eq_two.mp hlen
    obtain ⟨a', b', rfl⟩ := List.length_eq_two.mp hlen'
    obtain ⟨hadc, -⟩ := h.cons
    refine ⟨0, flagBit 1 a b, flagBit 1 a' b', .lux (luxOf (adcOfReading (reassemble a b))), ?_, ?_, .inl rfl⟩
    · exact fun s hb hs ha => hs ▸ exec_rdLux_answered hb ha
    · exact fun s hb hs ha => hs ▸ hadc ▸ exec_rdLux_answered hb ha
  · have hi4 : i ∈ [Instr.rdAdc, .rdXyz, .rdXy, .rdRgb] := by simpa [hlux] using hi
    rw [transactionsOf_eq_allReads _ hi4] at hlen
    obtain ⟨a0, b0, a1, b1, a2, b2, a3, b3, rfl⟩ := eq_four_pairs_of_length hlen
    obtain ⟨a0', b0', a1', b1', a2', b2', a3', b3', rfl⟩ := eq_four_pairs_of_length hlen'
    obtain ⟨status, p, hstatus, hresp⟩ := exists_status_payload_of_adcs hi4 hc (adcsOf a0 b0 a1 b1 a2 b2 a3 b3)
    exact ⟨status, _, _, p, hresp _ _ _ _ _ _ _ _ rfl, hresp _ _ _ _ _ _ _ _ h.adcsOf_eq, hstatus⟩

/-- Settles O52: the ADC values, and with them STATUS and payload, do not depend on the CRC fields. -/
theorem crcMismatchChangesCrcerrOnly : Obligations.CrcMismatchChangesCrcerrOnly := by
  unfold Obligations.CrcMismatchChangesCrcerrOnly
  intro i s t ws ws' hi hbs hbt hcfg hc hlen hlen' heven hodd has hat
  have hsame : SameButCrcFields ws ws' := ⟨heven, hodd⟩
  obtain ⟨status, e, e', p, hr, hr', hstatus⟩ := hsame.responds hi hc hlen hlen'
  exact ⟨status, e, e', p, hr s hbs rfl has, hr' t hbt hcfg.symm hat, hstatus⟩

end Sys2Proof.Machine

/-! Reset and the hazards (70_reset_and_hazards): a reset, a request or a configuration that is presented to the block, or
lands while a transaction of an operation is outstanding. -/

namespace Sys2Proof.Machine

/-! ### Presented between operations, or to a busy block -/

theorem step_of_reset {s : State} {rest : List HostEvent} (h : s.host = .reset :: rest) :
    step s = .next { s with host := rest }.resetNow :=
  step_of_done (by simp [fetch, h])

theorem step_of_request_busy {s : State} {w : Req24} {rest : List HostEvent} (h : s.host = .request w :: rest)
    (hb : s.busy = true) : step s = .refused .requestWhileBusy :=
  step_of_done (by simp [fetch, h, hb])

theorem step_of_configure_busy {s : State} {c : Cfg} {rest : List HostEvent} (h : s.host = .configure c :: rest)
    (hb : s.busy = true) : step s = .refused .configureWhileBusy :=
  step_of_done (by simp [fetch, h, hb])

/-- A reset leaves no operation in flight and no register with a value (10_state R16). -/
theorem resetNow_idle (s : State) : s.resetNow.Idle := ⟨rfl, rfl, rfl, rfl⟩

/-! ### Landing while a transaction is outstanding -/

/-- A host event that lands first stops the operation, after the transaction it lands on has been issued. -/
theorem exec_stopsAtHostEvent {i : Instr} {s : State} {n : Nat} {e : HostEvent} (hi : i.WellFormed) (hb : s.busy = false)
    (hc : configuredFor s.cfg i = true) (hn : n < (transactionsOf s.cfg.devAddr i).length) (hok : s.okUpTo n)
    (hev : s.linkEvent n = .host e) :
    exec i s = outcome (.error (stopAt (.host e) (s.ran ((transactionsOf s.cfg.devAddr i).take (n + 1))))) := by
  have hstop : linkWord (s.linkEvent n) = none := by rw [hev]; rfl
  rw [exec_stops hb hi hc hn hok hstop, hev]

/-- Settles O11: both resets end in `resetNow`, of the state as it stands or of the state with the transactions issued. -/
theorem resetEndsWhateverIsInFlight : Obligations.ResetEndsWhateverIsInFlight := by
  unfold Obligations.ResetEndsWhateverIsInFlight
  constructor
  · intro s rest h
    exact ⟨_, step_of_reset h, resetNow_idle _, rfl, rfl, rfl, rfl⟩
  · intro i s n hi hb hc hn hok hev
    exact ⟨_, exec_stopsAtHostEvent hi hb hc hn hok hev, resetNow_idle _, rfl, rfl, rfl⟩

/-- Settles O12: a busy block in `launch` and in `fetch`, and a request that stops the operation. -/
theorem requestWhileBusyIsRefused : Obligations.RequestWhileBusyIsRefused :=
  ⟨fun _ _ hb => exec_busy hb, fun _ _ _ h hb => step_of_request_busy h hb,
    fun _ _ _ _ hi hb hc hn hok hev => exec_stopsAtHostEvent hi hb hc hn hok hev⟩

/-! ### The configuration during an operation (R88) -/

/-- An operation that meets the link's answers only ends with CFG as it was: by its response when all answer Ok, and
otherwise by the response of its first link error. -/
theorem exec_keeps_cfg {i : Instr} {s t : State} (h : exec i s = .next t)
    (hquiet : s.quiet (transactionsOf s.cfg.devAddr i).length) : t.cfg = s.cfg := by
  rcases exec_cases i s with ⟨-, he⟩ | ⟨-, v, -, he⟩ | ⟨-, -, -, he⟩ | ⟨hb, hi, hc, -⟩
  · simp [he] at h
  · simp [he] at h
  · simp [he] at h
  rcases okUpTo_or_first_failure s (transactionsOf s.cfg.devAddr i).length with hok | ⟨n, hn, hok, hfail⟩
  · obtain ⟨r, -, he⟩ := exec_answered_legal hb hi hc hok
    obtain rfl := Host.Outcome.next.inj (he.symm.trans h)
    rfl
  · obtain ⟨a, ha⟩ := hquiet n hn
    cases a with
    | ok b0 b1 => simp [ha, linkWord] at hfail
    | err k =>
      have he := exec_endsAtFirstFailure hb hi hc n k hn hok ha
      obtain rfl := Host.Outcome.next.inj (he.symm.trans h)
      rfl

/-- Settles O13: `exec_keeps_cfg`, and the refusals of a configuration presented or landing in flight. -/
theorem configurationIsStaticDuringAnOperation : Obligations.ConfigurationIsStaticDuringAnOperation :=
  ⟨fun _ _ _ h hquiet => exec_keeps_cfg h hquiet, fun _ _ _ h hb => step_of_configure_busy h hb,
    fun _ _ _ _ hi hb hc hn hok hev => exec_stopsAtHostEvent hi hb hc hn hok hev⟩

end Sys2Proof.Machine
